-- ==== Sys2Proof/Word.lean ====
section
/-! DEFINITION. The word types of FSYNC: the bytes of the wire and of the buffers (20_memory.md R44), and the 16-bit fields and 32-bit times of 10_state.md section 3. -/

namespace Sys2Proof

/-- One byte of the wire or of a buffer. -/
abbrev Byte := BitVec 8

/-- A 16-bit field: a length, a sequence number, a byte count, a buffer offset. -/
abbrev Half := BitVec 16

/-- A 32-bit millisecond count. -/
abbrev Millis := BitVec 32

end Sys2Proof
end

