-- ==== Sys2Proof/Config.lean ====
section
/-! DEFINITION. What is fixed for a run of FSYNC (the parameters of 00_scope.md R5 to R8), the choices of the outside agents in one step (R66, R119), and the free values: what the spec calls a draw, and the outside choices no script fixes. -/

namespace Sys2Proof

/-- The parameters of R5, fixed for a whole run (R127). An OPEN parameter is an argument of every claim: it stands in the state's field `cfg`, which no step changes. -/
structure Params where
  /-- `N0`, pixels of channel 0 (OPEN). -/
  n0 : Nat
  /-- `N1`, pixels of channel 1 (OPEN). -/
  n1 : Nat
  /-- `MARKER0`, first marker byte (OPEN). -/
  marker0 : Byte
  /-- `MARKER1`, second marker byte (OPEN). -/
  marker1 : Byte
  /-- `T_TIMEOUT_MS` (OPEN). -/
  timeoutMs : Millis
  /-- `DISCARD_CEIL`, 4096 in the source, kept as a parameter (R8). -/
  discardCeil : Half
  deriving DecidableEq, Repr, Inhabited

/-- R6: `TOTAL_PIXELS = N0 + N1`. -/
def Params.totalPixels (p : Params) : Nat := p.n0 + p.n1

/-- R6: `FRAME_LEN = 3 * TOTAL_PIXELS`; also `BUF_CAP` (R39). -/
def Params.frameLen (p : Params) : Nat := 3 * p.totalPixels

/-- R7: the constraints on the parameters. The bounds of the markers and of `DISCARD_CEIL` are those of their types. -/
def Params.ok (p : Params) : Bool :=
  decide (1 ≤ p.frameLen) && decide (p.frameLen ≤ 65535) && decide (1 ≤ p.timeoutMs.toNat)

/-- EX1 of 92_eei_decisions.md D25: the spec's own example, illustrative. -/
def Params.ex1 : Params :=
  { n0 := 2, n1 := 2, marker0 := 0xAA#8, marker1 := 0x55#8, timeoutMs := 100#32, discardCeil := 4096#16 }

/-- EX2 of D25: EX1 with 240 + 240 pixels. -/
def Params.ex2 : Params := { Params.ex1 with n0 := 240, n1 := 240 }

/-- EX3 of D25: EX1 with 1000 + 1000 pixels, a payload longer than the discard ceiling. -/
def Params.ex3 : Params := { Params.ex1 with n0 := 1000, n1 := 1000 }

/-- What the outside agents choose for one step (R119): the host's `rst`, `tick` and `rd_addr`, the time source's `now_ms`, and the bytes that reach the byte source's queue before the step samples its inputs. DESIGN CHOICE log 4, log 5. -/
structure Stimulus where
  rst : Bool
  tick : Bool
  arrive : List Byte
  nowMs : Millis
  rdAddr : Half
  deriving DecidableEq, Repr, Inhabited

/-- The draw of R40: the content of a buffer byte never written since the last reset, by the number of that reset's draws and the byte's address. Free: nothing constrains it. Log 2. -/
opaque Config.freeByte : Nat → Nat → Byte

/-- The draw of R32: `last_seq` after a reset, by the number of that reset's draws. Free. Log 3. -/
opaque Config.freeSeq : Nat → Half

/-- The outside agents' choices in a step that no script fixes, by the number of the step. Free: any agent's behaviour. Log 4. -/
opaque Config.freeStimulus : Nat → Stimulus

end Sys2Proof
end

