-- ==== Sys2Proof/Syntax.lean ====
section
/-! DEFINITION. The operations of FSYNC: one constructor per row of spec/opcode_table.json (30_encoding.md R60). A row that consumes a byte carries that byte `b` (the rule's operand); FRONT_READ carries `rd_addr`. -/

namespace Sys2Proof

/-- The 27 rows of R60. -/
inductive Instr where
  /-- RESET, R123. -/
  | reset
  /-- IDLE_M0, R70. -/
  | idleM0 (b : Byte)
  /-- IDLE_SKIP, R71. -/
  | idleSkip (b : Byte)
  /-- IDLE_WAIT, R74. -/
  | idleWait
  /-- GOT_M1, R72. -/
  | gotM1 (b : Byte)
  /-- GOT_FAIL, R73. -/
  | gotFail (b : Byte)
  /-- GOT_WAIT, R75. -/
  | gotWait
  /-- HDR_BYTE, R76. -/
  | hdrByte (b : Byte)
  /-- HDR_ACCEPT, R78. -/
  | hdrAccept (b : Byte)
  /-- HDR_MISMATCH, R79. -/
  | hdrMismatch (b : Byte)
  /-- HDR_TOO_LARGE, R80. -/
  | hdrTooLarge (b : Byte)
  /-- HDR_TIMEOUT, R81. -/
  | hdrTimeout
  /-- HDR_WAIT, R82. -/
  | hdrWait
  /-- PAY_BYTE, R86. -/
  | payByte (b : Byte)
  /-- PAY_COMMIT, R87. -/
  | payCommit (b : Byte)
  /-- PAY_TIMEOUT, R88. -/
  | payTimeout
  /-- PAY_WAIT, R89. -/
  | payWait
  /-- DISC_BYTE, R90. -/
  | discByte (b : Byte)
  /-- DISC_DONE, R91. -/
  | discDone (b : Byte)
  /-- DISC_TIMEOUT, R93. -/
  | discTimeout
  /-- DISC_WAIT, R94. -/
  | discWait
  /-- RENDER_RELEASE, R95. -/
  | renderRelease
  /-- RENDER_HOLD, R96. -/
  | renderHold
  /-- HOLD_RELEASE, R97. -/
  | holdRelease
  /-- HOLD_HOLD, R98. -/
  | holdHold
  /-- RESERVED_STATE, R112. -/
  | reservedState
  /-- FRONT_READ, R99. -/
  | frontRead (addr : Half)
  deriving DecidableEq, Repr

end Sys2Proof
end

