-- ==== Sys2Proof/WellFormed.lean ====
section
/-! DEFINITION. Which operations the step selector can express under given parameters: those whose guard of 30_encoding.md R60 some input and register values satisfy, and the reads that R100 gives a meaning. -/

namespace Sys2Proof

/-- Some 16-bit length is TOO_LARGE (41_header_validate.md R77): above the ceiling and not `FRAME_LEN`. -/
def Params.hasTooLarge (p : Params) : Bool :=
  decide (p.discardCeil.toNat < 65534) ||
    (decide (p.discardCeil.toNat = 65534) && decide (p.frameLen ≠ 65535))

/-- Well-formedness of an operation under the parameters: the parameters meet R7, the row's guard can hold with this operand (R59, R60), and a read address names a byte (R100). -/
def Instr.wf (p : Params) (i : Instr) : Bool :=
  p.ok &&
  match i with
  | .idleM0 b => decide (b = p.marker0)
  | .idleSkip b => decide (b ≠ p.marker0)
  | .gotM1 b => decide (b = p.marker1)
  | .gotFail b => decide (b ≠ p.marker1)
  | .hdrTooLarge _ => p.hasTooLarge
  | .frontRead addr => decide (addr.toNat < p.frameLen)
  | .reset | .idleWait | .gotWait | .hdrByte _ | .hdrAccept _ | .hdrMismatch _ | .hdrTimeout | .hdrWait
  | .payByte _ | .payCommit _ | .payTimeout | .payWait | .discByte _ | .discDone _ | .discTimeout | .discWait
  | .renderRelease | .renderHold | .holdRelease | .holdHold | .reservedState => true

end Sys2Proof
end

