-- ==== Sys2Proof/Decode.lean ====
section
/-! DEFINITION. The step selector of 30_encoding.md section 2: the words (`Encoded`), the length validator of 41_header_validate.md R77 that two guards use, the decoder (R61), the operation map R60 as a table, the encoder, and `decodeTableWord`. -/

namespace Sys2Proof

/-! ### The length validator (R77) -/

/-- The verdicts of R77. -/
inductive LenClass where
  | accept
  | mismatch
  | tooLarge
  deriving DecidableEq, Repr

/-- R77: `class(L)`, its tests in the source's order. -/
def classify (p : Params) (len : Half) : LenClass :=
  if len.toNat = p.frameLen then .accept
  else if len.toNat ≤ p.discardCeil.toNat then .mismatch
  else .tooLarge

/-! ### The words -/

/-- What the choice of a step's row depends on (R58, R59): the selector word `SEL[6:0]` and the operands of the guards, the offered byte and three registers. `rxData` is read only where `SEL[3]` is set (log 20). -/
structure Selector where
  sel : BitVec 7
  rxData : Byte
  hcnt : BitVec 2
  lenR : Half
  cnt : Half
  deriving DecidableEq, Repr

/-- `SEL[2:0]`, the state code (R58). -/
def Selector.stField (x : Selector) : BitVec 3 := x.sel.extractLsb' 0 3

/-- `SEL[3]`, `rx_valid` (R58). -/
def Selector.rxv (x : Selector) : Bool := x.sel.getLsbD 3

/-- `SEL[4]`, the timeout condition (R58). -/
def Selector.tmo (x : Selector) : Bool := x.sel.getLsbD 4

/-- `SEL[5]`, `tick` (R58). -/
def Selector.tick (x : Selector) : Bool := x.sel.getLsbD 5

/-- `SEL[6]`, `rst` (R58). -/
def Selector.rst (x : Selector) : Bool := x.sel.getLsbD 6

/-- R58: the word `{rst, tick, tmo, rxv, st}`. -/
def packSel (rst tick tmo rxv : Bool) (st : BitVec 3) : BitVec 7 :=
  BitVec.ofBool rst ++ BitVec.ofBool tick ++ BitVec.ofBool tmo ++ BitVec.ofBool rxv ++ st

/-- The two formats of the opcode table: SEL and RDPORT (R58, R63). -/
inductive Encoded where
  | sel (x : Selector)
  | rdport (addr : Half)
  deriving DecidableEq, Repr

/-- Why a word is no operation. -/
inductive DecodeError where
  /-- The table's rows have 7 bits (format SEL) or 16 bits (format RDPORT), no other number. -/
  | noSuchFormat
  /-- A bit above the format's bits is set. -/
  | bitsAboveWord
  deriving DecidableEq, Repr

/-! ### The decoder -/

/-- R61: the row of a selector, with R59's guards. Total: every one of the 128 values of `SEL` has a row for every value of the guards' operands. -/
def decodeSel (p : Params) (x : Selector) : Instr :=
  if x.rst then .reset
  else
    match x.stField.toNat with
    | 0 =>
      if x.rxv then
        if x.rxData = p.marker0 then .idleM0 x.rxData else .idleSkip x.rxData
      else .idleWait
    | 1 =>
      if x.rxv then
        if x.rxData = p.marker1 then .gotM1 x.rxData else .gotFail x.rxData
      else .gotWait
    | 2 =>
      if x.rxv then
        if x.hcnt ≠ 3#2 then .hdrByte x.rxData
        else
          match classify p x.lenR with
          | .accept => .hdrAccept x.rxData
          | .mismatch => .hdrMismatch x.rxData
          | .tooLarge => .hdrTooLarge x.rxData
      else if x.tmo then .hdrTimeout else .hdrWait
    | 3 =>
      if x.rxv then
        if x.cnt.toNat = p.frameLen - 1 then .payCommit x.rxData else .payByte x.rxData
      else if x.tmo then .payTimeout else .payWait
    | 4 =>
      if x.rxv then
        if x.cnt = 1#16 then .discDone x.rxData else .discByte x.rxData
      else if x.tmo then .discTimeout else .discWait
    | 5 => if x.tick then .renderRelease else .renderHold
    | 6 => if x.tick then .holdRelease else .holdHold
    | _ => .reservedState

/-- The operation a word stands for. -/
def decode (p : Params) : Encoded → Instr
  | .sel x => decodeSel p x
  | .rdport addr => .frontRead addr

/-- A word of the opcode table as the table numbers its bits, every guard operand zero. -/
def tableWord (nbits w : Nat) : Except DecodeError Encoded :=
  if nbits = 7 ∨ nbits = 8 then
    if w < 128 then .ok (.sel { sel := BitVec.ofNat 7 w, rxData := 0#8, hcnt := 0#2, lenR := 0#16, cnt := 0#16 })
    else .error .bitsAboveWord
  else if nbits = 16 then
    if w < 65536 then .ok (.rdport (BitVec.ofNat 16 w)) else .error .bitsAboveWord
  else .error .noSuchFormat

/-- The instruction the decoder reads from a word of the opcode table, under the parameters that `State.reset` carries (log 1) and with every bit above the row's bits zero. Rows that differ only in their guard share their word; the zero operands pick one of them (log 13). -/
def decodeTableWord (nbits w : Nat) : Option Instr :=
  match tableWord nbits w with
  | .ok e => some (decode Params.ex1 e)
  | .error _ => none

/-! ### The operation map R60 as a table -/

/-- The guards of R60, by what they test. -/
inductive Guard where
  | always
  | isMarker0
  | notMarker0
  | isMarker1
  | notMarker1
  | hcntNot3
  | lastAccept
  | lastMismatch
  | lastTooLarge
  | cntNotLast
  | cntLast
  | cntNot1
  | cnt1
  deriving DecidableEq, Repr

/-- R59: when a guard holds. -/
def Guard.holds (p : Params) (x : Selector) : Guard → Bool
  | .always => true
  | .isMarker0 => decide (x.rxData = p.marker0)
  | .notMarker0 => decide (x.rxData ≠ p.marker0)
  | .isMarker1 => decide (x.rxData = p.marker1)
  | .notMarker1 => decide (x.rxData ≠ p.marker1)
  | .hcntNot3 => decide (x.hcnt ≠ 3#2)
  | .lastAccept => decide (x.hcnt = 3#2) && decide (classify p x.lenR = .accept)
  | .lastMismatch => decide (x.hcnt = 3#2) && decide (classify p x.lenR = .mismatch)
  | .lastTooLarge => decide (x.hcnt = 3#2) && decide (classify p x.lenR = .tooLarge)
  | .cntNotLast => decide (x.cnt.toNat ≠ p.frameLen - 1)
  | .cntLast => decide (x.cnt.toNat = p.frameLen - 1)
  | .cntNot1 => decide (x.cnt ≠ 1#16)
  | .cnt1 => decide (x.cnt = 1#16)

/-- One row of R60, format SEL. -/
structure Row where
  mnemonic : String
  mtch : BitVec 7
  mask : BitVec 7
  guard : Guard
  deriving DecidableEq, Repr

/-- R58: a row applies when `(SEL & mask) == match` and its guard holds. -/
def Row.applies (p : Params) (x : Selector) (r : Row) : Bool :=
  decide (x.sel &&& r.mask = r.mtch) && r.guard.holds p x

/-- R60: the row of an operation; none for FRONT_READ, whose format is RDPORT. -/
def rowOf : Instr → Option Row
  | .reset => some ⟨"RESET", 0x40#7, 0x40#7, .always⟩
  | .idleM0 _ => some ⟨"IDLE_M0", 0x08#7, 0x4F#7, .isMarker0⟩
  | .idleSkip _ => some ⟨"IDLE_SKIP", 0x08#7, 0x4F#7, .notMarker0⟩
  | .idleWait => some ⟨"IDLE_WAIT", 0x00#7, 0x4F#7, .always⟩
  | .gotM1 _ => some ⟨"GOT_M1", 0x09#7, 0x4F#7, .isMarker1⟩
  | .gotFail _ => some ⟨"GOT_FAIL", 0x09#7, 0x4F#7, .notMarker1⟩
  | .gotWait => some ⟨"GOT_WAIT", 0x01#7, 0x4F#7, .always⟩
  | .hdrByte _ => some ⟨"HDR_BYTE", 0x0A#7, 0x4F#7, .hcntNot3⟩
  | .hdrAccept _ => some ⟨"HDR_ACCEPT", 0x0A#7, 0x4F#7, .lastAccept⟩
  | .hdrMismatch _ => some ⟨"HDR_MISMATCH", 0x0A#7, 0x4F#7, .lastMismatch⟩
  | .hdrTooLarge _ => some ⟨"HDR_TOO_LARGE", 0x0A#7, 0x4F#7, .lastTooLarge⟩
  | .hdrTimeout => some ⟨"HDR_TIMEOUT", 0x12#7, 0x5F#7, .always⟩
  | .hdrWait => some ⟨"HDR_WAIT", 0x02#7, 0x5F#7, .always⟩
  | .payByte _ => some ⟨"PAY_BYTE", 0x0B#7, 0x4F#7, .cntNotLast⟩
  | .payCommit _ => some ⟨"PAY_COMMIT", 0x0B#7, 0x4F#7, .cntLast⟩
  | .payTimeout => some ⟨"PAY_TIMEOUT", 0x13#7, 0x5F#7, .always⟩
  | .payWait => some ⟨"PAY_WAIT", 0x03#7, 0x5F#7, .always⟩
  | .discByte _ => some ⟨"DISC_BYTE", 0x0C#7, 0x4F#7, .cntNot1⟩
  | .discDone _ => some ⟨"DISC_DONE", 0x0C#7, 0x4F#7, .cnt1⟩
  | .discTimeout => some ⟨"DISC_TIMEOUT", 0x14#7, 0x5F#7, .always⟩
  | .discWait => some ⟨"DISC_WAIT", 0x04#7, 0x5F#7, .always⟩
  | .renderRelease => some ⟨"RENDER_RELEASE", 0x25#7, 0x67#7, .always⟩
  | .renderHold => some ⟨"RENDER_HOLD", 0x05#7, 0x67#7, .always⟩
  | .holdRelease => some ⟨"HOLD_RELEASE", 0x26#7, 0x67#7, .always⟩
  | .holdHold => some ⟨"HOLD_HOLD", 0x06#7, 0x67#7, .always⟩
  | .reservedState => some ⟨"RESERVED_STATE", 0x07#7, 0x47#7, .always⟩
  | .frontRead _ => none

/-- The 26 operations of format SEL with a given consumed byte. -/
def selInstrs (b : Byte) : List Instr :=
  [.reset, .idleM0 b, .idleSkip b, .idleWait, .gotM1 b, .gotFail b, .gotWait] ++
  [.hdrByte b, .hdrAccept b, .hdrMismatch b, .hdrTooLarge b, .hdrTimeout, .hdrWait] ++
  [.payByte b, .payCommit b, .payTimeout, .payWait, .discByte b, .discDone b, .discTimeout, .discWait] ++
  [.renderRelease, .renderHold, .holdRelease, .holdHold, .reservedState]

/-! ### The encoder -/

/-- A length that is TOO_LARGE where the parameters have one. -/
def tooLargeLen (p : Params) : Half :=
  if p.frameLen = 65535 then 0xFFFE#16 else 0xFFFF#16

/-- A word of a well-formed operation: its row's `match` bits with the ignored bits zero, and guard operands that meet its guard (R60; log 13). -/
def encode (p : Params) : Instr → Encoded
  | .reset => .sel ⟨0x40#7, 0#8, 0#2, 0#16, 0#16⟩
  | .idleM0 b => .sel ⟨0x08#7, b, 0#2, 0#16, 0#16⟩
  | .idleSkip b => .sel ⟨0x08#7, b, 0#2, 0#16, 0#16⟩
  | .idleWait => .sel ⟨0x00#7, 0#8, 0#2, 0#16, 0#16⟩
  | .gotM1 b => .sel ⟨0x09#7, b, 0#2, 0#16, 0#16⟩
  | .gotFail b => .sel ⟨0x09#7, b, 0#2, 0#16, 0#16⟩
  | .gotWait => .sel ⟨0x01#7, 0#8, 0#2, 0#16, 0#16⟩
  | .hdrByte b => .sel ⟨0x0A#7, b, 0#2, 0#16, 0#16⟩
  | .hdrAccept b => .sel ⟨0x0A#7, b, 3#2, BitVec.ofNat 16 p.frameLen, 0#16⟩
  | .hdrMismatch b => .sel ⟨0x0A#7, b, 3#2, 0#16, 0#16⟩
  | .hdrTooLarge b => .sel ⟨0x0A#7, b, 3#2, tooLargeLen p, 0#16⟩
  | .hdrTimeout => .sel ⟨0x12#7, 0#8, 0#2, 0#16, 0#16⟩
  | .hdrWait => .sel ⟨0x02#7, 0#8, 0#2, 0#16, 0#16⟩
  | .payByte b => .sel ⟨0x0B#7, b, 0#2, 0#16, 0#16⟩
  | .payCommit b => .sel ⟨0x0B#7, b, 0#2, 0#16, BitVec.ofNat 16 (p.frameLen - 1)⟩
  | .payTimeout => .sel ⟨0x13#7, 0#8, 0#2, 0#16, 0#16⟩
  | .payWait => .sel ⟨0x03#7, 0#8, 0#2, 0#16, 0#16⟩
  | .discByte b => .sel ⟨0x0C#7, b, 0#2, 0#16, 2#16⟩
  | .discDone b => .sel ⟨0x0C#7, b, 0#2, 0#16, 1#16⟩
  | .discTimeout => .sel ⟨0x14#7, 0#8, 0#2, 0#16, 0#16⟩
  | .discWait => .sel ⟨0x04#7, 0#8, 0#2, 0#16, 0#16⟩
  | .renderRelease => .sel ⟨0x25#7, 0#8, 0#2, 0#16, 0#16⟩
  | .renderHold => .sel ⟨0x05#7, 0#8, 0#2, 0#16, 0#16⟩
  | .holdRelease => .sel ⟨0x26#7, 0#8, 0#2, 0#16, 0#16⟩
  | .holdHold => .sel ⟨0x06#7, 0#8, 0#2, 0#16, 0#16⟩
  | .reservedState => .sel ⟨0x07#7, 0#8, 0#2, 0#16, 0#16⟩
  | .frontRead addr => .rdport addr

end Sys2Proof
end

