-- ==== Sys2Proof/Machine/State.lean ====
section
/-! DEFINITION. The state of FSYNC: the registers of 10_state.md section 3, the two payload buffers of 20_memory.md R39, the parameters of R5, the inputs and outputs of the current step, and what the outside agents of R119 hold. Plain data. Reset: 70_reset_and_hazards.md R123, R124. -/

namespace Sys2Proof.Machine

/-- The eight values of `st[2:0]` (R22); the last is the reserved code 7. -/
inductive SyncState where
  | idle
  | gotM0
  | hdr
  | payload
  | discard
  | render
  | hold
  | reserved
  deriving DecidableEq, Repr

/-- The event codes that are ever emitted (R31); codes 5 to 7 are reserved. -/
inductive Event where
  | none
  | frameReady
  | transportTimeout
  | lengthMismatch
  | lengthTooLarge
  deriving DecidableEq, Repr

/-- The inputs sampled in a step: `rst` (R20), `tick` (R19), `rx` (R16: `some b` is `rx_valid = 1` with `rx_data = b`, `none` is `rx_valid = 0`), `now_ms` (R18), `rd_addr` (R21). -/
structure Pins where
  rst : Bool
  tick : Bool
  rx : Option Byte
  nowMs : Millis
  rdAddr : Half
  deriving DecidableEq, Repr

/-- The outputs of a step that are no function of the state: `ev` (R31) and `rd_data` (R21, R99), absent where the read is refused (R100). DESIGN CHOICE log 14. -/
structure Outputs where
  ev : Event
  rdData : Option Byte
  deriving DecidableEq, Repr

/-- Everything the spec gives the machine, and what the model needs beside it. -/
structure State where
  /-- The parameters of R5, constant over a run (R127). Log 1. -/
  cfg : Params
  /-- `st` (R22). -/
  st : SyncState
  /-- `hcnt` (R24). -/
  hcnt : BitVec 2
  /-- `len_r` (R25). -/
  lenR : Half
  /-- `seq_r` (R26). -/
  seqR : Half
  /-- `cnt` (R27). -/
  cnt : Half
  /-- `t_last` (R28). -/
  tLast : Millis
  /-- `front` (R29). -/
  front : BitVec 1
  /-- `has_frame` (R30). -/
  hasFrame : Bool
  /-- `last_seq` (R32). -/
  lastSeq : Half
  /-- The bytes of `BUF[0]` and `BUF[1]` written since the last reset, by address `{k, off}`, strictly rising (R39, R41). A byte not listed is a draw (R40). Log 2, log 6. -/
  mem : List Host.Cell
  /-- The inputs sampled in the step (R12). -/
  pins : Pins
  /-- The outputs of the step (R33). -/
  out : Outputs
  /-- MODEL'S OWN: the bytes the byte source holds and FSYNC has not consumed, oldest first (R16, R132). Log 5. -/
  rxQueue : List Byte
  /-- MODEL'S OWN: the outside agents' choices for the next steps (R66, R119). Log 4. -/
  script : List Stimulus
  /-- MODEL'S OWN: how many steps have sampled inputs; the index of the next free stimulus. Log 4. -/
  steps : Nat
  /-- MODEL'S OWN: how many resets have drawn values; the index of the current draws. Log 2, log 3. -/
  epoch : Nat
  deriving DecidableEq, Repr

/-- Why the machine stops with a fault. -/
inductive Fault where
  /-- R112: RESERVED_STATE, `st = 7` with `rst = 0`; raised by that row alone, and it has no next state. Safe. -/
  | reservedState
  /-- R41: a buffer write at an offset that is not below `FRAME_LEN`, an address the spec says does not exist; raised by PAY_BYTE and PAY_COMMIT in states no run from reset reaches (R37). Safe. Log 7. -/
  | noSuchBufferByte
  deriving DecidableEq, Repr

/-- Why the model gives a step or an operation no meaning. -/
inductive Refusal where
  /-- An operation that has no meaning yet; raised by `exec` alone. Safe. -/
  | notModelled (mnemonic : String)
  /-- R100, R113 (b): a read-port read with `rd_addr >= FRAME_LEN`; raised by FRONT_READ. Safe. Log 10. -/
  | readOutOfRange
  /-- R7, R113 (d): parameters outside R7's constraints; raised by `step`. Safe. Log 11. -/
  | badConfiguration
  /-- R64, R113 (e): a stimulus line whose step is not the one it describes, such as a byte that is not consumed; raised by the stimulus notation alone. Safe. Log 17. -/
  | illFormedStimulus
  deriving DecidableEq, Repr

/-- R124: the registers right after a reset under parameters `p`. `last_seq` and the buffers are the draws of index 0. The inputs, outputs and outside agents: nothing asserted, nothing pending (log 16). -/
def State.resetWith (p : Params) : State :=
  { cfg := p
    st := .idle
    hcnt := 0#2
    lenR := 0#16
    seqR := 0#16
    cnt := 0#16
    tLast := 0#32
    front := 0#1
    hasFrame := false
    lastSeq := Config.freeSeq 0
    mem := []
    pins := { rst := false, tick := false, rx := none, nowMs := 0#32, rdAddr := 0#16 }
    out := { ev := .none, rdData := none }
    rxQueue := []
    script := []
    steps := 0
    epoch := 0 }

/-- The machine right after reset, under the spec's example parameters EX1 (D25; DESIGN CHOICE log 1). -/
def State.reset : State := State.resetWith Params.ex1

end Sys2Proof.Machine
end

