-- ==== Sys2Proof/Machine/Flags.lean ====
section
/-! DEFINITION. The conditions of a step: the inter-byte timeout (42_payload_discard.md R85), ready and take (10_state.md R16, R17), and the event codes (R31). FSYNC has no condition codes (R35). -/

namespace Sys2Proof.Machine

/-- R85: `elapsed = (now_ms - t_last) mod 2^32`. -/
def State.elapsed (s : State) : Millis := s.pins.nowMs - s.tLast

/-- R85: `tmo = (elapsed >= T_TIMEOUT_MS)`, unsigned. -/
def State.tmo (s : State) : Bool := decide (s.cfg.timeoutMs.toNat ≤ s.elapsed.toNat)

/-- R22: the states in which FSYNC consumes bytes, the column `rx_ready`. -/
def SyncState.ready : SyncState → Bool
  | .idle | .gotM0 | .hdr | .payload | .discard => true
  | .render | .hold | .reserved => false

/-- R85: the states in which the timeout is armed. -/
def SyncState.timed : SyncState → Bool
  | .hdr | .payload | .discard => true
  | .idle | .gotM0 | .render | .hold | .reserved => false

/-- R16: the output `rx_ready`. -/
def State.rxReady (s : State) : Bool := s.st.ready && !s.pins.rst

/-- R17: `take = (rst == 0) and (rx_valid == 1) and (rx_ready == 1)`. -/
def State.take (s : State) : Bool := !s.pins.rst && s.pins.rx.isSome && s.rxReady

/-- R31: the event's code on `ev[2:0]`. -/
def Event.code : Event → BitVec 3
  | .none => 0#3
  | .frameReady => 1#3
  | .transportTimeout => 2#3
  | .lengthMismatch => 3#3
  | .lengthTooLarge => 4#3

end Sys2Proof.Machine
end

