-- ==== Sys2Proof/Machine/Operands.lean ====
section
/-! DEFINITION. What a step reads: the sampled inputs (00_scope.md R12, 10_state.md R16 to R21), the step selector built from state and inputs (30_encoding.md R58), the fields of the wire (R10, R54), and the outputs that are functions of the state (R33). -/

namespace Sys2Proof.Machine

/-! ### Byte fields -/

/-- R10: `u16le(lo, hi) = zext_16(lo) | (zext_16(hi) << 8)`. Little-endian as least significant byte first: PRESUMED, the spec's G1 (log 15). -/
def u16le (lo hi : Byte) : Half := lo.setWidth 16 ||| (hi.setWidth 16 <<< 8)

/-- Bits 7:0. -/
def lowByte (w : Half) : Byte := w.extractLsb' 0 8

/-- Bits 15:8. -/
def highByte (w : Half) : Byte := w.extractLsb' 8 8

/-- `w[7:0] <- b`. -/
def setLow (w : Half) (b : Byte) : Half := u16le b (highByte w)

/-- `w[15:8] <- b`. -/
def setHigh (w : Half) (b : Byte) : Half := u16le (lowByte w) b

/-! ### The inputs of a step -/

/-- The outside agents' choice for the next step: the head of the script, or a free one where the script is at its end (log 4). -/
def State.nextStimulus (s : State) : Stimulus :=
  match s.script with
  | [] => Config.freeStimulus s.steps
  | x :: _ => x

/-- The bytes the byte source holds in the next step: those still unconsumed, then the step's arrivals (R16, R132; log 5). -/
def State.nextQueue (s : State) : List Byte := s.rxQueue ++ s.nextStimulus.arrive

/-- R12, R16: the inputs of the step are sampled. The byte source offers its oldest unconsumed byte, so an offered byte stays offered until it is consumed. -/
def State.sample (s : State) : State :=
  { s with
    pins :=
      { rst := s.nextStimulus.rst
        tick := s.nextStimulus.tick
        rx := s.nextQueue.head?
        nowMs := s.nextStimulus.nowMs
        rdAddr := s.nextStimulus.rdAddr }
    rxQueue := s.nextQueue
    script := s.script.tail
    steps := s.steps + 1 }

/-! ### The step selector -/

/-- R22: the code of `st[2:0]`. -/
def SyncState.code : SyncState → BitVec 3
  | .idle => 0#3
  | .gotM0 => 1#3
  | .hdr => 2#3
  | .payload => 3#3
  | .discard => 4#3
  | .render => 5#3
  | .hold => 6#3
  | .reserved => 7#3

/-- The state of a code of `st[2:0]` (R22). -/
def SyncState.ofCode (c : BitVec 3) : SyncState :=
  match c.toNat with
  | 0 => .idle
  | 1 => .gotM0
  | 2 => .hdr
  | 3 => .payload
  | 4 => .discard
  | 5 => .render
  | 6 => .hold
  | _ => .reserved

/-- R58: `SEL` of the sampled state, with the operands of the guards (R59). -/
def State.selector (s : State) : Selector :=
  { sel := packSel s.pins.rst s.pins.tick s.tmo s.pins.rx.isSome s.st.code
    rxData := s.pins.rx.getD 0#8
    hcnt := s.hcnt
    lenR := s.lenR
    cnt := s.cnt }

/-- The row that the step performs (R58 to R61). -/
def State.fetch (s : State) : Instr := decodeSel s.cfg s.selector

/-! ### Outputs that are functions of the state (R33) -/

/-- R33: the output `state[2:0]`. -/
def State.stateOut (s : State) : BitVec 3 := s.st.code

/-- R33: the output `front_sel`. -/
def State.frontSel (s : State) : BitVec 1 := s.front

/-- R33: the output `has_frame`. -/
def State.hasFrameOut (s : State) : Bool := s.hasFrame

/-- R33: the output `ready_seq[15:0]`. -/
def State.readySeq (s : State) : Half := s.lastSeq

/-- R31: the output `ev[2:0]` of the step. -/
def State.evOut (s : State) : BitVec 3 := s.out.ev.code

end Sys2Proof.Machine
end

