-- ==== Sys2Proof/Machine/Ops.lean ====
section
/-! DEFINITION. The shared operations of 00_scope.md R11 and 20_memory.md: the buffers, the consumption of a byte, events, the role swap, the abandonment of a read (the one recovery of an error kind that returns to IDLE at once), and the step's outcome. -/

namespace Sys2Proof.Machine

/-! ### The memory as plain data -/

/-- The byte listed at an address. `none` is what an unlisted address reads as: never written since the last reset (R40; log 6). -/
def Memory.read : List Host.Cell → Nat → Option Byte
  | [], _ => none
  | (a, b) :: m, x => if a = x then some b else Memory.read m x

/-- The memory with one byte written, the addresses kept strictly rising. -/
def Memory.write : List Host.Cell → Nat → Byte → List Host.Cell
  | [], x, v => [(x, v)]
  | (a, b) :: m, x, v =>
    if x < a then (x, v) :: (a, b) :: m
    else if x = a then (x, v) :: m
    else (a, b) :: Memory.write m x v

/-- The canonical form: addresses strictly rising. An unlisted address reads as no byte at all, so no listed byte can equal it (log 6). -/
def Memory.wf : List Host.Cell → Bool
  | [] => true
  | c :: m => m.all (fun d => decide (c.1 < d.1)) && Memory.wf m

/-! ### The buffers -/

/-- R41: the address `{k, off}` of byte `off` of buffer `k`. -/
def bufAddr (k : BitVec 1) (off : Half) : Nat := (k ++ off).toNat

/-- R11, R40: `BufRead(k, off)`: the byte written last, or the draw of the last reset where nothing was written since. -/
def State.bufByte (s : State) (k : BitVec 1) (off : Half) : Byte :=
  match Memory.read s.mem (bufAddr k off) with
  | some b => b
  | none => Config.freeByte s.epoch (bufAddr k off)

/-- R29: the index of the back buffer, `1 - front`. -/
def State.back (s : State) : BitVec 1 := 1#1 - s.front

/-- The next state, if any, goes on to `f`. -/
def onNext (o : Host.Outcome State Fault Refusal) (f : State → Host.Outcome State Fault Refusal) :
    Host.Outcome State Fault Refusal :=
  match o with
  | .next s => f s
  | .fault r => .fault r
  | .refused r => .refused r

/-- The byte at `(k, off)` is `v`. -/
def State.store (k : BitVec 1) (off : Half) (v : Byte) (s : State) : State :=
  { s with mem := Memory.write s.mem (bufAddr k off) v }

/-- R11: `BufWrite(k, off, v)`. An offset not below `FRAME_LEN` names no byte (R41) and faults (log 7). -/
def bufWrite (k : BitVec 1) (off : Half) (v : Byte) (s : State) : Host.Outcome State Fault Refusal :=
  if off.toNat < s.cfg.frameLen then .next (s.store k off v)
  else .fault .noSuchBufferByte

/-- R21, R100: what the read port drives for an address: `BufRead(front, addr)`, or no value where the read is refused. -/
def readPort (s : State) (addr : Half) : Option Byte :=
  if addr.toNat < s.cfg.frameLen then some (s.bufByte s.front addr) else none

/-! ### Registers, events, bytes -/

/-- R11: `emit E`; a row that emits nothing drives NONE (R31). -/
def State.emit (e : Event) (s : State) : State := { s with out := { s.out with ev := e } }

/-- `st <- x`. -/
def State.goto (x : SyncState) (s : State) : State := { s with st := x }

/-- `hcnt <- x`. -/
def State.setHcnt (x : BitVec 2) (s : State) : State := { s with hcnt := x }

/-- `len_r <- x`. -/
def State.setLenR (x : Half) (s : State) : State := { s with lenR := x }

/-- `seq_r <- x`. -/
def State.setSeqR (x : Half) (s : State) : State := { s with seqR := x }

/-- `cnt <- x`. -/
def State.setCnt (x : Half) (s : State) : State := { s with cnt := x }

/-- R17, R28: the offered byte is consumed, it is gone from the stream, and `t_last <- now_ms`. -/
def State.consume (s : State) : State := { s with rxQueue := s.rxQueue.tail, tLast := s.pins.nowMs }

/-- R103: `Commit()`, the role swap. -/
def State.commit (s : State) : State :=
  State.emit .frameReady { s with front := 1#1 - s.front, hasFrame := true, lastSeq := s.seqR }

/-- R106, R114: a TransportTimeout is detected: the event, and the read is abandoned by returning to IDLE. Nothing is saved (R114). -/
def State.abandon (s : State) : State := (s.goto .idle).emit .transportTimeout

/-- R115: what ends a wait state, or the recovery of a LengthTooLarge: IDLE, with no event. -/
def State.release (s : State) : State := (s.goto .idle).emit .none

/-- R21: the output `rd_data` of the step. -/
def State.drive (d : Option Byte) (s : State) : State := { s with out := { s.out with rdData := d } }

/-- A step that changes no register and emits nothing. -/
def State.wait (s : State) : State := s.emit .none

/-- R123: the registers and the draws of a reset. The parameters, the sampled inputs and what the outside agents hold stay; no byte is consumed. -/
def State.resetRegisters (s : State) : State :=
  { s with
    st := .idle
    hcnt := 0#2
    lenR := 0#16
    seqR := 0#16
    cnt := 0#16
    tLast := 0#32
    front := 0#1
    hasFrame := false
    lastSeq := Config.freeSeq (s.epoch + 1)
    mem := []
    epoch := s.epoch + 1 }

/-! ### Around an operation -/

/-- R7, R113 (d): the model is instantiated only with parameters that meet R7. -/
def State.instantiated (s : State) : Bool := s.cfg.ok

/-- What FRONT_READ left on `rd_data`: nothing where it was refused. -/
def portData (o : Host.Outcome State Fault Refusal) : Option Byte :=
  match o with
  | .next s => s.out.rdData
  | .fault _ => none
  | .refused _ => none

/-- R58, R63: the selected row's outcome with the read port's answer of the same step beside it. -/
def withPort (port : Host.Outcome State Fault Refusal) (row : Host.Outcome State Fault Refusal) :
    Host.Outcome State Fault Refusal :=
  onNext row fun s => .next (s.drive (portData port))

end Sys2Proof.Machine
end

