-- ==== Sys2Proof/Machine/Discard.lean ====
section
/-! DEFINITION. The discard of a mismatched payload, 42_payload_discard.md R90 to R94. One byte a step; the source's chunks are unobservable (R92). -/

namespace Sys2Proof.Machine

/-- DISC_BYTE, R90: a 16-bit subtraction (R10; log 8). -/
def execDiscByte (_b : Byte) (s : State) : Host.Outcome State Fault Refusal :=
  .next ((s.consume.setCnt (s.cnt - 1#16)).emit .none)

/-- DISC_DONE, R91. -/
def execDiscDone (_b : Byte) (s : State) : Host.Outcome State Fault Refusal :=
  .next ((s.consume.goto .idle).emit .none)

/-- DISC_TIMEOUT, R93. -/
def execDiscTimeout (s : State) : Host.Outcome State Fault Refusal :=
  .next s.abandon

/-- DISC_WAIT, R94. -/
def execDiscWait (s : State) : Host.Outcome State Fault Refusal :=
  .next s.wait

end Sys2Proof.Machine
end

