-- ==== Sys2Proof/Machine/Header.lean ====
section
/-! DEFINITION. The metadata read and the length validator's verdicts, 41_header_validate.md R76 to R84. -/

namespace Sys2Proof.Machine

/-- R76: metadata byte `hcnt` is captured. The case 3 is none of R76's (log 9). -/
def captureMeta (b : Byte) (s : State) : State :=
  match s.hcnt.toNat with
  | 0 => s.setLenR (setLow s.lenR b)
  | 1 => s.setLenR (setHigh s.lenR b)
  | 2 => s.setSeqR (setLow s.seqR b)
  | _ => s

/-- HDR_BYTE, R76. -/
def execHdrByte (b : Byte) (s : State) : Host.Outcome State Fault Refusal :=
  .next (((captureMeta b s.consume).setHcnt (s.hcnt + 1#2)).emit .none)

/-- R78 to R80: metadata byte 3 is captured into `seq_r[15:8]`. -/
def captureLast (b : Byte) (s : State) : State := s.consume.setSeqR (setHigh s.seqR b)

/-- HDR_ACCEPT, R78. -/
def execHdrAccept (b : Byte) (s : State) : Host.Outcome State Fault Refusal :=
  .next ((((captureLast b s).setCnt 0#16).goto .payload).emit .none)

/-- HDR_MISMATCH, R79: a declared length of 0 leaves nothing to discard. -/
def execHdrMismatch (b : Byte) (s : State) : Host.Outcome State Fault Refusal :=
  .next
    ((if s.lenR = 0#16 then (captureLast b s).goto .idle
      else ((captureLast b s).setCnt s.lenR).goto .discard).emit .lengthMismatch)

/-- HDR_TOO_LARGE, R80. -/
def execHdrTooLarge (b : Byte) (s : State) : Host.Outcome State Fault Refusal :=
  .next (((captureLast b s).goto .hold).emit .lengthTooLarge)

/-- HDR_TIMEOUT, R81. -/
def execHdrTimeout (s : State) : Host.Outcome State Fault Refusal :=
  .next s.abandon

/-- HDR_WAIT, R82. -/
def execHdrWait (s : State) : Host.Outcome State Fault Refusal :=
  .next s.wait

end Sys2Proof.Machine
end

