-- ==== Sys2Proof/Machine/MarkerScan.lean ====
section
/-! DEFINITION. The marker scan, 40_marker_scan.md R69 to R75. No timeout and no tick acts here (R69). -/

namespace Sys2Proof.Machine

/-- IDLE_M0, R70. -/
def execIdleM0 (_b : Byte) (s : State) : Host.Outcome State Fault Refusal :=
  .next ((s.consume.goto .gotM0).emit .none)

/-- IDLE_SKIP, R71. -/
def execIdleSkip (_b : Byte) (s : State) : Host.Outcome State Fault Refusal :=
  .next (s.consume.emit .none)

/-- IDLE_WAIT, R74. -/
def execIdleWait (s : State) : Host.Outcome State Fault Refusal :=
  .next s.wait

/-- GOT_M1, R72. -/
def execGotM1 (_b : Byte) (s : State) : Host.Outcome State Fault Refusal :=
  .next (((s.consume.setHcnt 0#2).goto .hdr).emit .none)

/-- GOT_FAIL, R73: the byte is not tested against `MARKER0`. -/
def execGotFail (_b : Byte) (s : State) : Host.Outcome State Fault Refusal :=
  .next ((s.consume.goto .idle).emit .none)

/-- GOT_WAIT, R75. -/
def execGotWait (s : State) : Host.Outcome State Fault Refusal :=
  .next s.wait

end Sys2Proof.Machine
end

