-- ==== Sys2Proof/Machine/Payload.lean ====
section
/-! DEFINITION. The payload read and its commit, 42_payload_discard.md R86 to R89, with the role swap of 43_swap_readport.md R103. -/

namespace Sys2Proof.Machine

/-- PAY_BYTE, R86. -/
def execPayByte (b : Byte) (s : State) : Host.Outcome State Fault Refusal :=
  onNext (bufWrite s.back s.cnt b s) fun t => .next ((t.consume.setCnt (t.cnt + 1#16)).emit .none)

/-- PAY_COMMIT, R87: the last byte goes into the buffer that becomes front in the same step. -/
def execPayCommit (b : Byte) (s : State) : Host.Outcome State Fault Refusal :=
  onNext (bufWrite s.back s.cnt b s) fun t => .next (t.consume.commit.goto .render)

/-- PAY_TIMEOUT, R88: the buffers and `front` stay. -/
def execPayTimeout (s : State) : Host.Outcome State Fault Refusal :=
  .next s.abandon

/-- PAY_WAIT, R89. -/
def execPayWait (s : State) : Host.Outcome State Fault Refusal :=
  .next s.wait

end Sys2Proof.Machine
end

