-- ==== Sys2Proof/Machine/Reset.lean ====
section
/-! DEFINITION. Reset, 70_reset_and_hazards.md R123, and the reserved state, 60_exceptions.md R112. -/

namespace Sys2Proof.Machine

/-- RESET, R123. -/
def execReset (s : State) : Host.Outcome State Fault Refusal :=
  .next (s.resetRegisters.emit .none)

/-- RESERVED_STATE, R112: a model fault with no next state. A step with `rst = 1` from the same state is RESET, which clears it (log 12). -/
def execReservedState (_s : State) : Host.Outcome State Fault Refusal :=
  .fault .reservedState

end Sys2Proof.Machine
end

