-- ==== Sys2Proof/Machine/Swap.lean ====
section
/-! DEFINITION. The wait states and the front-buffer read port, 43_swap_readport.md R95 to R101. -/

namespace Sys2Proof.Machine

/-- RENDER_RELEASE, R95. -/
def execRenderRelease (s : State) : Host.Outcome State Fault Refusal :=
  .next s.release

/-- RENDER_HOLD, R96. -/
def execRenderHold (s : State) : Host.Outcome State Fault Refusal :=
  .next s.wait

/-- HOLD_RELEASE, R97. -/
def execHoldRelease (s : State) : Host.Outcome State Fault Refusal :=
  .next s.release

/-- HOLD_HOLD, R98. -/
def execHoldHold (s : State) : Host.Outcome State Fault Refusal :=
  .next s.wait

/-- FRONT_READ, R99, R100: drives `rd_data`, writes no register and does not change `ev`. -/
def execFrontRead (addr : Half) (s : State) : Host.Outcome State Fault Refusal :=
  match readPort s addr with
  | some b => .next (s.drive (some b))
  | none => .refused .readOutOfRange

end Sys2Proof.Machine
end

