-- ==== Sys2Proof/Machine/Dispatch.lean ====
section
/-! DEFINITION. One arm per operation, each a direct call of its meaning. -/

namespace Sys2Proof.Machine

def exec (i : Instr) (s : State) : Host.Outcome State Fault Refusal :=
  match i with
  | .reset => Sys2Proof.Machine.execReset s
  | .idleM0 b => Sys2Proof.Machine.execIdleM0 b s
  | .idleSkip b => Sys2Proof.Machine.execIdleSkip b s
  | .idleWait => Sys2Proof.Machine.execIdleWait s
  | .gotM1 b => Sys2Proof.Machine.execGotM1 b s
  | .gotFail b => Sys2Proof.Machine.execGotFail b s
  | .gotWait => Sys2Proof.Machine.execGotWait s
  | .hdrByte b => Sys2Proof.Machine.execHdrByte b s
  | .hdrAccept b => Sys2Proof.Machine.execHdrAccept b s
  | .hdrMismatch b => Sys2Proof.Machine.execHdrMismatch b s
  | .hdrTooLarge b => Sys2Proof.Machine.execHdrTooLarge b s
  | .hdrTimeout => Sys2Proof.Machine.execHdrTimeout s
  | .hdrWait => Sys2Proof.Machine.execHdrWait s
  | .payByte b => Sys2Proof.Machine.execPayByte b s
  | .payCommit b => Sys2Proof.Machine.execPayCommit b s
  | .payTimeout => Sys2Proof.Machine.execPayTimeout s
  | .payWait => Sys2Proof.Machine.execPayWait s
  | .discByte b => Sys2Proof.Machine.execDiscByte b s
  | .discDone b => Sys2Proof.Machine.execDiscDone b s
  | .discTimeout => Sys2Proof.Machine.execDiscTimeout s
  | .discWait => Sys2Proof.Machine.execDiscWait s
  | .renderRelease => Sys2Proof.Machine.execRenderRelease s
  | .renderHold => Sys2Proof.Machine.execRenderHold s
  | .holdRelease => Sys2Proof.Machine.execHoldRelease s
  | .holdHold => Sys2Proof.Machine.execHoldHold s
  | .reservedState => Sys2Proof.Machine.execReservedState s
  | .frontRead addr => Sys2Proof.Machine.execFrontRead addr s

end Sys2Proof.Machine
end

