-- ==== Sys2Proof/Machine/Step.lean ====
section
/-! DEFINITION. One step of FSYNC (00_scope.md R12, 30_encoding.md R58, R63): the inputs are sampled, the selected row and FRONT_READ both read the state before the step, and the row's next state carries the read port's answer. -/

namespace Sys2Proof.Machine

/-- One step. FRONT_READ runs in every step beside the row that SEL selects (R58); where it is refused (R100), `rd_data` has no value and the row goes on (log 10). Parameters outside R7 are refused (R113 (d)). -/
def step (s : State) : Host.Outcome State Fault Refusal :=
  if s.instantiated then
    withPort (exec (.frontRead s.sample.pins.rdAddr) s.sample) (exec s.sample.fetch s.sample)
  else .refused .badConfiguration

/-- The stimulus that makes the next step's selector carry the bits 3 to 6 of `w`: a byte 0 arrives if bit 3 is set, `elapsed` is `T_TIMEOUT_MS` if bit 4 is set and 0 otherwise. -/
def selStimulus (s : State) (w : BitVec 7) : Stimulus :=
  { rst := w.getLsbD 6
    tick := w.getLsbD 5
    arrive := if w.getLsbD 3 then [0#8] else []
    nowMs := if w.getLsbD 4 then s.tLast + s.cfg.timeoutMs else s.tLast
    rdAddr := 0#16 }

/-- The state whose next step performs the operation of an opcode-table word. FSYNC fetches no instruction (R51): a row of format SEL is selected by `st` and the step's inputs, with the guard operands zero, and a RDPORT word is the `rd_addr` of a step in which the outside agents do nothing else. Log 4, log 13. -/
def State.withFetchWord (s : State) (nbits w : Nat) : State :=
  if nbits = 16 then
    { s with
      rxQueue := []
      script :=
        { rst := false, tick := false, arrive := [], nowMs := s.tLast, rdAddr := BitVec.ofNat 16 w } :: s.script }
  else
    { s with
      st := SyncState.ofCode ((BitVec.ofNat 7 w).extractLsb' 0 3)
      hcnt := 0#2
      lenR := 0#16
      cnt := 0#16
      rxQueue := []
      script := selStimulus s (BitVec.ofNat 7 w) :: s.script }

end Sys2Proof.Machine
end

