-- ==== Sys2Proof/Machine/Pixels.lean ====
section
/-! DEFINITION. What a front buffer means to its reader: the payload layout of 30_encoding.md R55 and the renderer contract of 43_swap_readport.md R102. The renderer itself is outside FSYNC (00_scope.md R4 (d)). -/

namespace Sys2Proof.Machine

/-- R6: the number of pixels of a channel, `N_c`. -/
def channelSize (p : Params) (c : Fin 2) : Nat := if c = 0 then p.n0 else p.n1

/-- R102: `OFF_0 = 0`, `OFF_1 = N0`. -/
def channelOffset (p : Params) (c : Fin 2) : Nat := if c = 0 then 0 else p.n0

/-- R55: the channel and the local index of global pixel `i`. -/
def channelOf (p : Params) (i : Nat) : Fin 2 × Nat := if i < p.n0 then (0, i) else (1, i - p.n0)

/-- R102: the offset of colour `k` (0 red, 1 green, 2 blue) of local pixel `j` of channel `c`. -/
def colourOffset (p : Params) (c : Fin 2) (j k : Nat) : Half := BitVec.ofNat 16 (3 * (channelOffset p c + j) + k)

/-- R102: `(R, G, B)` of local pixel `j` of channel `c`, as the front buffer shows it. -/
def pixelAt (s : State) (c : Fin 2) (j : Nat) : Byte × Byte × Byte :=
  (s.bufByte s.front (colourOffset s.cfg c j 0),
   s.bufByte s.front (colourOffset s.cfg c j 1),
   s.bufByte s.front (colourOffset s.cfg c j 2))

end Sys2Proof.Machine
end

