-- ==== Sys2Proof/Machine/Stimulus.lean ====
section
/-! DEFINITION. The wire format of 30_encoding.md R53 to R55 from the sender's side, and the stimulus notation of R64 to R67 (a way to write a program for FSYNC; it is no part of the block). -/

namespace Sys2Proof.Machine

/-! ### The wire (R53, R54) -/

/-- R53, R54: the six header bytes in wire order. -/
def wireHeader (p : Params) (len seq : Half) : List Byte :=
  [p.marker0, p.marker1, lowByte len, highByte len, lowByte seq, highByte seq]

/-- R53: a wire frame. The payload need not have the declared length. -/
def wireFrame (p : Params) (len seq : Half) (payload : List Byte) : List Byte := wireHeader p len seq ++ payload

/-- R53: the header as one little-endian 48-bit word, a presentation only. -/
def headerWord (p : Params) (len seq : Half) : BitVec 48 := seq ++ len ++ p.marker1 ++ p.marker0

/-! ### Stimulus lines (R64) -/

/-- R64: `B v`, `W n`, `T`, `R`, `RD a`. -/
inductive Line where
  | byte (v : Byte)
  | wait (n : Nat)
  | tick
  | reset
  | read (a : Half)
  deriving DecidableEq, Repr

/-- R65: `HDR len, seq`. -/
def linesHdr (p : Params) (len seq : Half) : List Line := (wireHeader p len seq).map .byte

/-- R65: `FRAME len, seq, p0 p1 ... pk`. -/
def linesFrame (p : Params) (len seq : Half) (payload : List Byte) : List Line :=
  linesHdr p len seq ++ payload.map .byte

/-- R65: `FILL n, v`. -/
def linesFill (n : Nat) (v : Byte) : List Line := List.replicate n (.byte v)

/-- R65: `PIX r, g, b`. -/
def linesPix (r g b : Byte) : List Line := [.byte r, .byte g, .byte b]

/-- R64: one step under a stimulus. The current `now_ms` is that of the last step; the line says nothing of `rd_addr`, which is 0 (log 17). -/
def stepUnder (rst tick : Bool) (arrive : List Byte) (now : Millis) (s : State) : Host.Outcome State Fault Refusal :=
  if s.rxQueue = [] then
    step { s with script := { rst := rst, tick := tick, arrive := arrive, nowMs := now, rdAddr := 0#16 } :: s.script }
  else .refused .illFormedStimulus

/-- R64: `n` steps without a byte, `now_ms` one later before each. -/
def waitSteps : Nat → State → Host.Outcome State Fault Refusal
  | 0, s => .next s
  | n + 1, s => onNext (stepUnder false false [] (s.pins.nowMs + 1#32) s) (waitSteps n)

/-- R64: one line. A `B` line whose byte FSYNC would not consume is ill-formed (in the reserved state its step is the fault of R112), as is any line that says `rx_valid = 0` while the byte source holds a byte. `RD a` is an observation of the state the lines before it left. -/
def runLine (l : Line) (s : State) : Host.Outcome State Fault Refusal :=
  match l with
  | .byte v =>
    if s.st.ready || decide (s.st = .reserved) then stepUnder false false [v] s.pins.nowMs s
    else .refused .illFormedStimulus
  | .wait n => waitSteps n s
  | .tick => stepUnder false true [] s.pins.nowMs s
  | .reset => stepUnder true false [] s.pins.nowMs s
  | .read a => exec (.frontRead a) s

/-- R64: a program of stimulus lines. -/
def runLines : List Line → State → Host.Outcome State Fault Refusal
  | [], s => .next s
  | l :: ls, s => onNext (runLine l s) (runLines ls)

end Sys2Proof.Machine
end

