-- ==== Sys2Proof/Safety.lean ====
section
/-! DEFINITION. The terms in which claims about FSYNC speak: runs, what the outside agents do along a run, the duties of the host and the sender (70_reset_and_hazards.md R126 to R133), the states right after a reset and those reachable from one, and the invariant (10_state.md R37 and what the buffers keep). -/

namespace Sys2Proof.Machine

/-! ### Runs -/

/-- `k` steps, stopping at the first fault or refusal. -/
def runSteps : Nat → State → Host.Outcome State Fault Refusal
  | 0, s => .next s
  | k + 1, s => onNext (step s) (runSteps k)

/-- The outside agents' choice for the step after the next `n`. -/
def State.stimulusAt (s : State) (n : Nat) : Stimulus :=
  match s.script[n]? with
  | some x => x
  | none => Config.freeStimulus (s.steps + n)

/-- No reset is asserted in the next `n` steps. -/
def State.noReset (s : State) (n : Nat) : Prop := ∀ i, i < n → (s.stimulusAt i).rst = false

/-- The bytes that reach the byte source in the next `n` steps. -/
def State.arrivals (s : State) (n : Nat) : List Byte := (List.range n).flatMap fun i => (s.stimulusAt i).arrive

/-! ### What stays -/

/-- `front`, `has_frame`, `last_seq` are the same (R38). -/
def SameRoles (s t : State) : Prop := t.front = s.front ∧ t.hasFrame = s.hasFrame ∧ t.lastSeq = s.lastSeq

/-- Every byte of both buffers reads the same. -/
def SameBuffers (s t : State) : Prop := ∀ (k : BitVec 1) (off : Half), t.bufByte k off = s.bufByte k off

/-- Every byte of both buffers but that at `(k, off)` reads the same. -/
def SameBuffersBut (k : BitVec 1) (off : Half) (s t : State) : Prop :=
  ∀ (k' : BitVec 1) (off' : Half), (k', off') ≠ (k, off) → t.bufByte k' off' = s.bufByte k' off'

/-- The header registers `hcnt`, `len_r`, `seq_r` are the same. -/
def SameHeader (s t : State) : Prop := t.hcnt = s.hcnt ∧ t.lenR = s.lenR ∧ t.seqR = s.seqR

/-- The parameters, the sampled inputs, and the outside agents' script, counter and draws are the same. -/
def SameOutside (s t : State) : Prop :=
  t.cfg = s.cfg ∧ t.pins = s.pins ∧ t.script = s.script ∧ t.steps = s.steps ∧ t.epoch = s.epoch

/-- Every register of 10_state.md section 3 is the same. -/
def SameRegisters (s t : State) : Prop :=
  t.st = s.st ∧ SameHeader s t ∧ t.cnt = s.cnt ∧ t.tLast = s.tLast ∧ SameRoles s t

/-! ### What each row writes -/

/-- The rows that consume a byte (R17): they write `t_last` and take the byte from the stream. -/
def takesByte : Instr → Bool
  | .idleM0 _ | .idleSkip _ | .gotM1 _ | .gotFail _ | .hdrByte _ | .hdrAccept _ | .hdrMismatch _
  | .hdrTooLarge _ | .payByte _ | .payCommit _ | .discByte _ | .discDone _ => true
  | .reset | .idleWait | .gotWait | .hdrTimeout | .hdrWait | .payTimeout | .payWait | .discTimeout | .discWait
  | .renderRelease | .renderHold | .holdRelease | .holdHold | .reservedState | .frontRead _ => false

/-- The rows whose rule writes `st`. -/
def writesSt : Instr → Bool
  | .reset | .idleM0 _ | .gotM1 _ | .gotFail _ | .hdrAccept _ | .hdrMismatch _ | .hdrTooLarge _ | .hdrTimeout
  | .payCommit _ | .payTimeout | .discDone _ | .discTimeout | .renderRelease | .holdRelease => true
  | .idleSkip _ | .idleWait | .gotWait | .hdrByte _ | .hdrWait | .payByte _ | .payWait | .discByte _ | .discWait
  | .renderHold | .holdHold | .reservedState | .frontRead _ => false

/-- The rows whose rule writes `hcnt`. -/
def writesHcnt : Instr → Bool
  | .reset | .gotM1 _ | .hdrByte _ => true
  | .idleM0 _ | .idleSkip _ | .idleWait | .gotFail _ | .gotWait | .hdrAccept _ | .hdrMismatch _ | .hdrTooLarge _
  | .hdrTimeout | .hdrWait | .payByte _ | .payCommit _ | .payTimeout | .payWait | .discByte _ | .discDone _
  | .discTimeout | .discWait | .renderRelease | .renderHold | .holdRelease | .holdHold | .reservedState
  | .frontRead _ => false

/-- The rows whose rule writes `len_r`. -/
def writesLen : Instr → Bool
  | .reset | .hdrByte _ => true
  | .idleM0 _ | .idleSkip _ | .idleWait | .gotM1 _ | .gotFail _ | .gotWait | .hdrAccept _ | .hdrMismatch _
  | .hdrTooLarge _ | .hdrTimeout | .hdrWait | .payByte _ | .payCommit _ | .payTimeout | .payWait | .discByte _
  | .discDone _ | .discTimeout | .discWait | .renderRelease | .renderHold | .holdRelease | .holdHold
  | .reservedState | .frontRead _ => false

/-- The rows whose rule writes `seq_r`. -/
def writesSeq : Instr → Bool
  | .reset | .hdrByte _ | .hdrAccept _ | .hdrMismatch _ | .hdrTooLarge _ => true
  | .idleM0 _ | .idleSkip _ | .idleWait | .gotM1 _ | .gotFail _ | .gotWait | .hdrTimeout | .hdrWait | .payByte _
  | .payCommit _ | .payTimeout | .payWait | .discByte _ | .discDone _ | .discTimeout | .discWait
  | .renderRelease | .renderHold | .holdRelease | .holdHold | .reservedState | .frontRead _ => false

/-- The rows whose rule writes `cnt`. -/
def writesCnt : Instr → Bool
  | .reset | .hdrAccept _ | .hdrMismatch _ | .payByte _ | .discByte _ => true
  | .idleM0 _ | .idleSkip _ | .idleWait | .gotM1 _ | .gotFail _ | .gotWait | .hdrByte _ | .hdrTooLarge _
  | .hdrTimeout | .hdrWait | .payCommit _ | .payTimeout | .payWait | .discDone _ | .discTimeout | .discWait
  | .renderRelease | .renderHold | .holdRelease | .holdHold | .reservedState | .frontRead _ => false

/-- The rows whose rule writes `front`, `has_frame` and `last_seq` (R38). -/
def writesRoles : Instr → Bool
  | .reset | .payCommit _ => true
  | .idleM0 _ | .idleSkip _ | .idleWait | .gotM1 _ | .gotFail _ | .gotWait | .hdrByte _ | .hdrAccept _
  | .hdrMismatch _ | .hdrTooLarge _ | .hdrTimeout | .hdrWait | .payByte _ | .payTimeout | .payWait | .discByte _
  | .discDone _ | .discTimeout | .discWait | .renderRelease | .renderHold | .holdRelease | .holdHold
  | .reservedState | .frontRead _ => false

/-- The rows whose rule writes a buffer: the two payload rows one byte, RESET a draw of all (R38, R123). -/
def writesBuffer : Instr → Bool
  | .reset | .payByte _ | .payCommit _ => true
  | .idleM0 _ | .idleSkip _ | .idleWait | .gotM1 _ | .gotFail _ | .gotWait | .hdrByte _ | .hdrAccept _
  | .hdrMismatch _ | .hdrTooLarge _ | .hdrTimeout | .hdrWait | .payTimeout | .payWait | .discByte _ | .discDone _
  | .discTimeout | .discWait | .renderRelease | .renderHold | .holdRelease | .holdHold | .reservedState
  | .frontRead _ => false

/-! ### Duties of the host and the sender, of the state whose inputs are sampled -/

/-- R128: a read that belongs to a render is made in RENDER with a frame present. -/
def RenderDuty (s : State) : Prop := s.st = .render ∧ s.hasFrame = true

/-- R130: the host presents an address that names a byte. -/
def ReadDuty (s : State) : Prop := s.pins.rdAddr.toNat < s.cfg.frameLen

/-- R131: no step of an armed read sees both silence and an elapsed timeout. -/
def SenderDuty (s : State) : Prop := ¬ (s.st.timed = true ∧ s.pins.rx = none ∧ s.tmo = true)

/-- R133: from one step to the next, `now_ms` advances by 0 or 1 modulo 2^32. -/
def TimeDuty (s t : State) : Prop := t.pins.nowMs = s.pins.nowMs ∨ t.pins.nowMs = s.pins.nowMs + 1#32

/-! ### Reset states, reachable states, the invariant -/

/-- R124: the registers are as a reset leaves them, whatever was drawn and whatever the outside agents hold. -/
structure IsReset (s : State) : Prop where
  configured : s.cfg.ok = true
  stIdle : s.st = .idle
  hcntZero : s.hcnt = 0#2
  lenZero : s.lenR = 0#16
  seqZero : s.seqR = 0#16
  cntZero : s.cnt = 0#16
  timeZero : s.tLast = 0#32
  frontZero : s.front = 0#1
  noFrame : s.hasFrame = false
  nothingWritten : s.mem = []

/-- The states a run from a reset reaches. -/
inductive Reachable : State → Prop where
  | reset (s : State) (h : IsReset s) : Reachable s
  | step (s t : State) (hs : Reachable s) (h : step s = .next t) : Reachable t

/-- Every byte of buffer `k` below offset `n` has been written since the last reset. -/
def WrittenBelow (s : State) (k : BitVec 1) (n : Nat) : Prop :=
  ∀ off : Half, off.toNat < n → (Memory.read s.mem (bufAddr k off)).isSome = true

/-- The invariant. The first five clauses are R37's: of its clause `cnt != FRAME_LEN` in DISCARD, `discardDeclared` keeps what the rows of R79 and R90 make true, that the declared length the count comes down from is not `FRAME_LEN` (log 21). The others say what the buffers keep (R39, R41) and that a shown frame is whole (R30, R87). -/
structure StateInv (s : State) : Prop where
  configured : s.cfg.ok = true
  legal : s.st ≠ .reserved
  payloadCount : s.st = .payload → s.cnt.toNat < s.cfg.frameLen
  discardCount : s.st = .discard → 1 ≤ s.cnt.toNat ∧ s.cnt.toNat ≤ s.cfg.discardCeil.toNat
  discardDeclared : s.st = .discard → s.cnt.toNat ≤ s.lenR.toNat ∧ s.lenR.toNat ≠ s.cfg.frameLen
  memoryWf : Memory.wf s.mem = true
  inSpace : ∀ c ∈ s.mem, ∃ (k : BitVec 1) (off : Half), c.1 = bufAddr k off ∧ off.toNat < s.cfg.frameLen
  receivedWritten : s.st = .payload → WrittenBelow s s.back s.cnt.toNat
  frontWritten : s.hasFrame = true → WrittenBelow s s.front s.cfg.frameLen

end Sys2Proof.Machine
end

