-- ==== Sys2Proof/Certificates/Slice0/Obligations.lean ====
section
/-! DEFINITION. The statements for the provers. In the statements about one row, `s` is the state whose inputs have been sampled (R12); `step` samples them first (StepRunsSelectedRowBesideThePort). A free value is never evaluated: a statement that names one holds for every value of it. A statement that claims a next state of `step` or `runSteps` claims it for every `rd_addr`; that a step whose `rd_addr` is `FRAME_LEN` or more goes on, its read refused, is the model's choice (log 10). -/

open Sys2Proof Sys2Proof.Machine

/-! ### Encoding -/

/-- R58 to R60: whatever the selector and the guards' operands are, the decoder's row applies, and it is the only row of the operation map that does. -/
def Obligations.SelectorHasExactlyOneRow : Prop :=
  ∀ (p : Params) (x : Selector),
    (∃ r, rowOf (decodeSel p x) = some r ∧ r.applies p x = true) ∧ decodeSel p x ∈ selInstrs x.rxData ∧
    ∀ i ∈ selInstrs x.rxData, ∀ r, rowOf i = some r → r.applies p x = true → i = decodeSel p x

/-- R61, on the bits of the selector. -/
def Obligations.SelectorBitsPickTheRow : Prop :=
  ∀ (p : Params) (x : Selector),
    (x.rst = true → decodeSel p x = .reset) ∧
    (x.rst = false →
      (x.stField = 0#3 →
        (x.rxv = true → decodeSel p x = if x.rxData = p.marker0 then .idleM0 x.rxData else .idleSkip x.rxData) ∧
        (x.rxv = false → decodeSel p x = .idleWait)) ∧
      (x.stField = 1#3 →
        (x.rxv = true → decodeSel p x = if x.rxData = p.marker1 then .gotM1 x.rxData else .gotFail x.rxData) ∧
        (x.rxv = false → decodeSel p x = .gotWait)) ∧
      (x.stField = 2#3 →
        (x.rxv = true → x.hcnt ≠ 3#2 → decodeSel p x = .hdrByte x.rxData) ∧
        (x.rxv = true → x.hcnt = 3#2 →
          decodeSel p x =
            if x.lenR.toNat = p.frameLen then .hdrAccept x.rxData
            else if x.lenR.toNat ≤ p.discardCeil.toNat then .hdrMismatch x.rxData
            else .hdrTooLarge x.rxData) ∧
        (x.rxv = false → decodeSel p x = if x.tmo then .hdrTimeout else .hdrWait)) ∧
      (x.stField = 3#3 →
        (x.rxv = true →
          decodeSel p x = if x.cnt.toNat = p.frameLen - 1 then .payCommit x.rxData else .payByte x.rxData) ∧
        (x.rxv = false → decodeSel p x = if x.tmo then .payTimeout else .payWait)) ∧
      (x.stField = 4#3 →
        (x.rxv = true → decodeSel p x = if x.cnt = 1#16 then .discDone x.rxData else .discByte x.rxData) ∧
        (x.rxv = false → decodeSel p x = if x.tmo then .discTimeout else .discWait)) ∧
      (x.stField = 5#3 → decodeSel p x = if x.tick then .renderRelease else .renderHold) ∧
      (x.stField = 6#3 → decodeSel p x = if x.tick then .holdRelease else .holdHold) ∧
      (x.stField = 7#3 → decodeSel p x = .reservedState))

/-- Decoding the word of a well-formed operation gives it back, for every row, every operand and all parameters (the layout of the guards' operands is the model's, log 13). -/
def Obligations.DecodeOfEncodeIsTheInstruction : Prop :=
  ∀ (p : Params) (i : Instr), i.wf p = true → decode p (encode p i) = i

/-- Words written out from R60 (match values, guard operands under EX1) decode to the rows they stand for. -/
def Obligations.OperationMapWordsDecode : Prop :=
  decodeSel Params.ex1 ⟨0x40#7, 0#8, 0#2, 0#16, 0#16⟩ = .reset ∧
  decodeSel Params.ex1 ⟨0x08#7, 0xAA#8, 0#2, 0#16, 0#16⟩ = .idleM0 0xAA#8 ∧
  decodeSel Params.ex1 ⟨0x0A#7, 0x00#8, 3#2, 12#16, 0#16⟩ = .hdrAccept 0x00#8 ∧
  decodeSel Params.ex1 ⟨0x0B#7, 0x07#8, 0#2, 0#16, 11#16⟩ = .payCommit 0x07#8 ∧
  decodeSel Params.ex1 ⟨0x14#7, 0#8, 0#2, 0#16, 2#16⟩ = .discTimeout ∧
  decodeSel Params.ex1 ⟨0x25#7, 0#8, 0#2, 0#16, 0#16⟩ = .renderRelease ∧
  decode Params.ex1 (.rdport 11#16) = .frontRead 11#16

/-- R10, R42, R54: a 16-bit field assembled from its two wire bytes, least significant first (the meaning of little-endian is PRESUMED, log 15); the six header bytes, read least significant first, are the header word of R53. -/
def Obligations.WireFieldsAreLittleEndian : Prop :=
  (∀ lo hi : Byte, (u16le lo hi).toNat = lo.toNat + 256 * hi.toNat) ∧
  (∀ w : Half, u16le (lowByte w) (highByte w) = w) ∧
  (∀ (p : Params) (len seq : Half),
    (wireHeader p len seq).foldr (fun b n => b.toNat + 256 * n) 0 = (headerWord p len seq).toNat)

/-! ### The step -/

/-- R12, R16, R119: sampling takes the next stimulus and the byte source's oldest byte as the step's inputs, and changes no register and no buffer byte. How the outside agents are held is the model's choice (log 4, log 5). -/
def Obligations.SamplingTakesTheOutsideInputs : Prop :=
  ∀ (s : State) (x : Stimulus) (xs : List Stimulus), s.script = x :: xs →
    s.sample.pins.rst = x.rst ∧ s.sample.pins.tick = x.tick ∧ s.sample.pins.nowMs = x.nowMs ∧
    s.sample.pins.rdAddr = x.rdAddr ∧ s.sample.pins.rx = (s.rxQueue ++ x.arrive).head? ∧
    s.sample.rxQueue = s.rxQueue ++ x.arrive ∧ s.sample.script = xs ∧
    SameRegisters s s.sample ∧ SameBuffers s s.sample ∧ s.sample.cfg = s.cfg

/-- R58, R63: under parameters that meet R7, a step is the decoded row of the sampled state and FRONT_READ, both reading the state before the step (R12); the decoded row is never refused. R100 and R113 (b) refuse a read at `rd_addr >= FRAME_LEN`; that the step then goes on, with `rdData` none, is the model's choice (log 10). -/
def Obligations.StepRunsSelectedRowBesideThePort : Prop :=
  ∀ s : State, s.cfg.ok = true →
    (∀ t, exec (decodeSel s.cfg s.sample.selector) s.sample = .next t →
      step s = .next { t with out := { t.out with rdData := readPort s.sample s.sample.pins.rdAddr } }) ∧
    (∀ f, exec (decodeSel s.cfg s.sample.selector) s.sample = .fault f → step s = .fault f) ∧
    (∀ r, exec (decodeSel s.cfg s.sample.selector) s.sample ≠ .refused r)

/-- R7, R113 (d): a step is refused for its parameters exactly when they are outside R7's constraints. That `step` is what refuses is the model's choice (log 11). -/
def Obligations.ParametersOutsideTheConstraintsAreRefused : Prop :=
  ∀ s : State, step s = .refused .badConfiguration ↔
    ¬ (1 ≤ 3 * (s.cfg.n0 + s.cfg.n1) ∧ 3 * (s.cfg.n0 + s.cfg.n1) ≤ 65535 ∧ 1 ≤ s.cfg.timeoutMs.toNat)

/-- R37, R112: from every state that meets the invariant there is a next state: no fault, no refusal. For a step whose `rd_addr` is `FRAME_LEN` or more this is the model's choice (log 10): R113 (b) refuses that read, and R138 says nothing of a run that breaks R130. -/
def Obligations.InvariantStatesNeverStop : Prop :=
  ∀ s : State, StateInv s → ∃ t, step s = .next t

/-! ### The marker scan -/

/-- R70, R71, R74: the rows of IDLE. `tick` and the timeout condition are free. -/
def Obligations.IdleRows : Prop :=
  ∀ s : State, s.st = .idle → s.pins.rst = false →
    (∀ b, s.pins.rx = some b → b = s.cfg.marker0 →
      s.fetch = .idleM0 b ∧
      exec (.idleM0 b) s = .next { s with
        st := .gotM0, tLast := s.pins.nowMs, rxQueue := s.rxQueue.tail, out := { s.out with ev := .none } }) ∧
    (∀ b, s.pins.rx = some b → b ≠ s.cfg.marker0 →
      s.fetch = .idleSkip b ∧
      exec (.idleSkip b) s = .next { s with
        tLast := s.pins.nowMs, rxQueue := s.rxQueue.tail, out := { s.out with ev := .none } }) ∧
    (s.pins.rx = none →
      s.fetch = .idleWait ∧ exec .idleWait s = .next { s with out := { s.out with ev := .none } })

/-- R72, R73, R75: the rows of GOT_M0. The failed byte is not tested against `MARKER0`. -/
def Obligations.SecondMarkerRows : Prop :=
  ∀ s : State, s.st = .gotM0 → s.pins.rst = false →
    (∀ b, s.pins.rx = some b → b = s.cfg.marker1 →
      s.fetch = .gotM1 b ∧
      exec (.gotM1 b) s = .next { s with
        st := .hdr, hcnt := 0#2, tLast := s.pins.nowMs, rxQueue := s.rxQueue.tail,
        out := { s.out with ev := .none } }) ∧
    (∀ b, s.pins.rx = some b → b ≠ s.cfg.marker1 →
      s.fetch = .gotFail b ∧
      exec (.gotFail b) s = .next { s with
        st := .idle, tLast := s.pins.nowMs, rxQueue := s.rxQueue.tail, out := { s.out with ev := .none } }) ∧
    (s.pins.rx = none →
      s.fetch = .gotWait ∧ exec .gotWait s = .next { s with out := { s.out with ev := .none } })

/-! ### Metadata and the validator -/

/-- R76: metadata bytes 0, 1 and 2. -/
def Obligations.MetadataByteRow : Prop :=
  ∀ (s : State) (b : Byte), s.st = .hdr → s.pins.rst = false → s.pins.rx = some b → s.hcnt ≠ 3#2 →
    s.fetch = .hdrByte b ∧
    exec (.hdrByte b) s = .next { s with
      hcnt := s.hcnt + 1#2
      lenR :=
        if s.hcnt = 0#2 then s.lenR.extractLsb' 8 8 ++ b
        else if s.hcnt = 1#2 then b ++ s.lenR.extractLsb' 0 8
        else s.lenR
      seqR := if s.hcnt = 2#2 then s.seqR.extractLsb' 8 8 ++ b else s.seqR
      tLast := s.pins.nowMs, rxQueue := s.rxQueue.tail, out := { s.out with ev := .none } }

/-- R77 to R80: the verdict at metadata byte 3, the tests in R77's order. -/
def Obligations.LengthVerdictRows : Prop :=
  ∀ (s : State) (b : Byte), s.st = .hdr → s.pins.rst = false → s.pins.rx = some b → s.hcnt = 3#2 →
    (s.lenR.toNat = s.cfg.frameLen →
      s.fetch = .hdrAccept b ∧
      exec (.hdrAccept b) s = .next { s with
        st := .payload, cnt := 0#16, seqR := b ++ s.seqR.extractLsb' 0 8,
        tLast := s.pins.nowMs, rxQueue := s.rxQueue.tail, out := { s.out with ev := .none } }) ∧
    (s.lenR.toNat ≠ s.cfg.frameLen → s.lenR.toNat ≤ s.cfg.discardCeil.toNat →
      s.fetch = .hdrMismatch b ∧
      (s.lenR = 0#16 →
        exec (.hdrMismatch b) s = .next { s with
          st := .idle, seqR := b ++ s.seqR.extractLsb' 0 8,
          tLast := s.pins.nowMs, rxQueue := s.rxQueue.tail, out := { s.out with ev := .lengthMismatch } }) ∧
      (s.lenR ≠ 0#16 →
        exec (.hdrMismatch b) s = .next { s with
          st := .discard, cnt := s.lenR, seqR := b ++ s.seqR.extractLsb' 0 8,
          tLast := s.pins.nowMs, rxQueue := s.rxQueue.tail, out := { s.out with ev := .lengthMismatch } })) ∧
    (s.lenR.toNat ≠ s.cfg.frameLen → s.cfg.discardCeil.toNat < s.lenR.toNat →
      s.fetch = .hdrTooLarge b ∧
      exec (.hdrTooLarge b) s = .next { s with
        st := .hold, seqR := b ++ s.seqR.extractLsb' 0 8,
        tLast := s.pins.nowMs, rxQueue := s.rxQueue.tail, out := { s.out with ev := .lengthTooLarge } })

/-- R81, R82: no byte offered in HDR. -/
def Obligations.MetadataSilenceRows : Prop :=
  ∀ s : State, s.st = .hdr → s.pins.rst = false → s.pins.rx = none →
    (s.cfg.timeoutMs.toNat ≤ (s.pins.nowMs - s.tLast).toNat →
      s.fetch = .hdrTimeout ∧
      exec .hdrTimeout s = .next { s with st := .idle, out := { s.out with ev := .transportTimeout } }) ∧
    ((s.pins.nowMs - s.tLast).toNat < s.cfg.timeoutMs.toNat →
      s.fetch = .hdrWait ∧ exec .hdrWait s = .next { s with out := { s.out with ev := .none } })

/-! ### The payload -/

/-- R86: one payload byte goes to the back buffer at offset `cnt`; every other byte of both buffers stays. -/
def Obligations.PayloadByteRow : Prop :=
  ∀ (s : State) (b : Byte), s.st = .payload → s.pins.rst = false → s.pins.rx = some b →
    s.cnt.toNat < s.cfg.frameLen - 1 →
    s.fetch = .payByte b ∧
    ∃ t, exec (.payByte b) s = .next t ∧
      t.bufByte (1#1 - s.front) s.cnt = b ∧ SameBuffersBut (1#1 - s.front) s.cnt s t ∧
      t.cnt = s.cnt + 1#16 ∧ t.tLast = s.pins.nowMs ∧ t.rxQueue = s.rxQueue.tail ∧
      t.out = { s.out with ev := .none } ∧
      t.st = s.st ∧ SameHeader s t ∧ SameRoles s t ∧ SameOutside s t

/-- R87, R103: the last payload byte is stored and the roles are swapped in the same step. -/
def Obligations.PayloadCommitRow : Prop :=
  ∀ (s : State) (b : Byte), s.st = .payload → s.pins.rst = false → s.pins.rx = some b →
    1 ≤ s.cfg.frameLen → s.cnt.toNat = s.cfg.frameLen - 1 →
    s.fetch = .payCommit b ∧
    ∃ t, exec (.payCommit b) s = .next t ∧
      t.bufByte (1#1 - s.front) s.cnt = b ∧ SameBuffersBut (1#1 - s.front) s.cnt s t ∧
      t.front = 1#1 - s.front ∧ t.hasFrame = true ∧ t.lastSeq = s.seqR ∧ t.st = .render ∧
      t.tLast = s.pins.nowMs ∧ t.rxQueue = s.rxQueue.tail ∧ t.out = { s.out with ev := .frameReady } ∧
      SameHeader s t ∧ t.cnt = s.cnt ∧ SameOutside s t

/-- R88, R89: no byte offered in PAYLOAD. The buffers and the roles stay. -/
def Obligations.PayloadSilenceRows : Prop :=
  ∀ s : State, s.st = .payload → s.pins.rst = false → s.pins.rx = none →
    (s.cfg.timeoutMs.toNat ≤ (s.pins.nowMs - s.tLast).toNat →
      s.fetch = .payTimeout ∧
      exec .payTimeout s = .next { s with st := .idle, out := { s.out with ev := .transportTimeout } }) ∧
    ((s.pins.nowMs - s.tLast).toNat < s.cfg.timeoutMs.toNat →
      s.fetch = .payWait ∧ exec .payWait s = .next { s with out := { s.out with ev := .none } })

/-- R41 and the model's choice of log 7: a payload byte at an offset that is no address of a buffer faults. No reachable state does it. -/
def Obligations.PayloadByteOutsideTheBufferFaults : Prop :=
  ∀ (s : State) (b : Byte), s.cfg.frameLen ≤ s.cnt.toNat →
    exec (.payByte b) s = .fault .noSuchBufferByte ∧ exec (.payCommit b) s = .fault .noSuchBufferByte

/-! ### The discard -/

/-- R90, R91, R93, R94: the rows of DISCARD. R90's operand is `cnt > 1`; a count of 0, which no run reaches, is DiscardCountZeroWraps. -/
def Obligations.DiscardRows : Prop :=
  ∀ s : State, s.st = .discard → s.pins.rst = false →
    (∀ b, s.pins.rx = some b → 1 < s.cnt.toNat →
      s.fetch = .discByte b ∧
      exec (.discByte b) s = .next { s with
        cnt := s.cnt - 1#16, tLast := s.pins.nowMs, rxQueue := s.rxQueue.tail,
        out := { s.out with ev := .none } }) ∧
    (∀ b, s.pins.rx = some b → s.cnt = 1#16 →
      s.fetch = .discDone b ∧
      exec (.discDone b) s = .next { s with
        st := .idle, tLast := s.pins.nowMs, rxQueue := s.rxQueue.tail, out := { s.out with ev := .none } }) ∧
    (s.pins.rx = none → s.cfg.timeoutMs.toNat ≤ (s.pins.nowMs - s.tLast).toNat →
      s.fetch = .discTimeout ∧
      exec .discTimeout s = .next { s with st := .idle, out := { s.out with ev := .transportTimeout } }) ∧
    (s.pins.rx = none → (s.pins.nowMs - s.tLast).toNat < s.cfg.timeoutMs.toNat →
      s.fetch = .discWait ∧ exec .discWait s = .next { s with out := { s.out with ev := .none } })

/-- The model's reading of a count of 0 in DISCARD (log 8): the guard `cnt != 1` of R60 holds, and the 16-bit subtraction wraps. -/
def Obligations.DiscardCountZeroWraps : Prop :=
  ∀ (s : State) (b : Byte), s.st = .discard → s.pins.rst = false → s.pins.rx = some b → s.cnt = 0#16 →
    s.fetch = .discByte b ∧
    exec (.discByte b) s = .next { s with
      cnt := 0xFFFF#16, tLast := s.pins.nowMs, rxQueue := s.rxQueue.tail, out := { s.out with ev := .none } }

/-! ### Wait states, read port, reset, reserved state -/

/-- R95 to R98: RENDER and HOLD, released by `tick` alone. An offered byte is not consumed. -/
def Obligations.WaitStateRows : Prop :=
  ∀ s : State, s.pins.rst = false →
    (s.st = .render → s.pins.tick = true →
      s.fetch = .renderRelease ∧
      exec .renderRelease s = .next { s with st := .idle, out := { s.out with ev := .none } }) ∧
    (s.st = .render → s.pins.tick = false →
      s.fetch = .renderHold ∧ exec .renderHold s = .next { s with out := { s.out with ev := .none } }) ∧
    (s.st = .hold → s.pins.tick = true →
      s.fetch = .holdRelease ∧
      exec .holdRelease s = .next { s with st := .idle, out := { s.out with ev := .none } }) ∧
    (s.st = .hold → s.pins.tick = false →
      s.fetch = .holdHold ∧ exec .holdHold s = .next { s with out := { s.out with ev := .none } })

/-- R99, R100: the read port drives the front buffer's byte and nothing else; an address that names no byte is refused; the read runs in every step, on the state before it. -/
def Obligations.FrontReadRow : Prop :=
  (∀ (s : State) (addr : Half),
    (addr.toNat < s.cfg.frameLen →
      exec (.frontRead addr) s = .next { s with out := { s.out with rdData := some (s.bufByte s.front addr) } }) ∧
    (s.cfg.frameLen ≤ addr.toNat → exec (.frontRead addr) s = .refused .readOutOfRange)) ∧
  (∀ s t : State, step s = .next t → s.nextStimulus.rdAddr.toNat < s.cfg.frameLen →
    t.out.rdData = some (s.bufByte s.front s.nextStimulus.rdAddr))

/-- R123, R124: RESET, selected by `rst` alone. The form of the draws is the model's choice: free values, numbered by `epoch`, which the row advances by 1, for `last_seq` (log 3) and every buffer byte (log 2). -/
def Obligations.ResetRow : Prop :=
  ∀ s : State, s.pins.rst = true →
    s.fetch = .reset ∧
    ∃ t, exec .reset s = .next t ∧
      t.st = .idle ∧ t.hcnt = 0#2 ∧ t.lenR = 0#16 ∧ t.seqR = 0#16 ∧ t.cnt = 0#16 ∧ t.tLast = 0#32 ∧
      t.front = 0#1 ∧ t.hasFrame = false ∧ t.lastSeq = Config.freeSeq t.epoch ∧
      (∀ (k : BitVec 1) (off : Half), t.bufByte k off = Config.freeByte t.epoch (bufAddr k off)) ∧
      t.epoch = s.epoch + 1 ∧ t.out = { s.out with ev := .none } ∧
      t.rxQueue = s.rxQueue ∧ t.cfg = s.cfg ∧ t.pins = s.pins ∧ t.script = s.script ∧ t.steps = s.steps

/-- R112: in the reserved state a step without `rst` faults and has no next state; a step with `rst` is RESET and clears it, with the registers of R123 and R124. That the fault is an outcome of `step`, cleared by stepping the same state with `rst`, is DEDUCED (log 12); that a refused read beside the RESET does not stop it is the model's choice (log 10). -/
def Obligations.ReservedStateFaultsUntilReset : Prop :=
  (∀ s : State, s.st = .reserved → s.pins.rst = false →
    s.fetch = .reservedState ∧ exec .reservedState s = .fault .reservedState) ∧
  (∀ s : State, s.cfg.ok = true → s.st = .reserved → s.nextStimulus.rst = false → step s = .fault .reservedState) ∧
  (∀ s : State, s.cfg.ok = true → s.st = .reserved → s.nextStimulus.rst = true → ∃ t, step s = .next t ∧ IsReset t)

/-! ### Frames -/

/-- Every row but RESET, PAY_BYTE and PAY_COMMIT leaves every byte of both buffers as it reads. -/
def Obligations.RowsWithoutStoreKeepEveryByte : Prop :=
  ∀ (i : Instr) (s t : State), writesBuffer i = false → exec i s = .next t → SameBuffers s t

/-- PAY_BYTE and PAY_COMMIT store one byte at offset `cnt` of the back buffer, and nothing else. -/
def Obligations.PayloadRowsStoreOneByte : Prop :=
  ∀ (i : Instr) (b : Byte) (s t : State), i = .payByte b ∨ i = .payCommit b → exec i s = .next t →
    s.cnt.toNat < s.cfg.frameLen ∧ t.bufByte s.back s.cnt = b ∧
    ∀ (k : BitVec 1) (off : Half), bufAddr k off ≠ bufAddr s.back s.cnt → t.bufByte k off = s.bufByte k off

/-- Every row writes only the registers its rule names; no row changes the parameters, the inputs, the script or the step counter, and only RESET draws. -/
def Obligations.RowsWriteOnlyTheirRegisters : Prop :=
  ∀ (i : Instr) (s t : State), exec i s = .next t →
    (writesSt i = false → t.st = s.st) ∧ (writesHcnt i = false → t.hcnt = s.hcnt) ∧
    (writesLen i = false → t.lenR = s.lenR) ∧ (writesSeq i = false → t.seqR = s.seqR) ∧
    (writesCnt i = false → t.cnt = s.cnt) ∧ (writesRoles i = false → SameRoles s t) ∧
    (takesByte i = true → t.tLast = s.pins.nowMs ∧ t.rxQueue = s.rxQueue.tail) ∧
    (takesByte i = false → t.rxQueue = s.rxQueue ∧ (i ≠ .reset → t.tLast = s.tLast)) ∧
    (i ≠ .reset → t.epoch = s.epoch) ∧
    t.cfg = s.cfg ∧ t.pins = s.pins ∧ t.script = s.script ∧ t.steps = s.steps

/-! ### Rules about every step -/

/-- R17, R28: a step consumes the offered byte exactly when `take` holds; it then writes `t_last`. -/
def Obligations.TakeConsumesOneByte : Prop :=
  ∀ s t : State, step s = .next t →
    (s.sample.take = true →
      ∃ b, s.sample.pins.rx = some b ∧ s.sample.rxQueue = b :: t.rxQueue ∧ t.tLast = s.sample.pins.nowMs) ∧
    (s.sample.take = false →
      t.rxQueue = s.sample.rxQueue ∧ (s.sample.pins.rst = false → t.tLast = s.tLast))

/-- R16: FSYNC is ready in its five reading states without `rst`; it consumes an offered byte in a step in which it is ready, and a byte offered while it is not ready is offered again. -/
def Obligations.OfferedByteStaysUntilReady : Prop :=
  (∀ s : State, s.rxReady = true ↔
    (s.st = .idle ∨ s.st = .gotM0 ∨ s.st = .hdr ∨ s.st = .payload ∨ s.st = .discard) ∧ s.pins.rst = false) ∧
  (∀ (s t : State) (b : Byte), step s = .next t → s.sample.pins.rx = some b →
    (s.sample.rxReady = true → s.sample.rxQueue = b :: t.rxQueue) ∧
    (s.sample.rxReady = false → t.rxQueue = s.sample.rxQueue ∧ t.sample.pins.rx = some b))

/-- R85: when a timeout fires; a byte offered in the same step is consumed instead. -/
def Obligations.TimeoutFiresExactlyOnSilence : Prop :=
  ∀ s t : State, step s = .next t →
    (t.out.ev = .transportTimeout ↔
      (s.st = .hdr ∨ s.st = .payload ∨ s.st = .discard) ∧ s.sample.pins.rst = false ∧ s.sample.pins.rx = none ∧
      s.cfg.timeoutMs.toNat ≤ (s.sample.pins.nowMs - s.tLast).toNat) ∧
    ((s.st = .hdr ∨ s.st = .payload ∨ s.st = .discard) → s.sample.pins.rst = false →
      ∀ b, s.sample.pins.rx = some b → s.sample.rxQueue = b :: t.rxQueue)

/-- R31: each event code is driven by its rows alone, 0 in every other step, and the codes 5 to 7 never. -/
def Obligations.EventsComeFromTheirRows : Prop :=
  ∀ s t : State, step s = .next t →
    (t.evOut = 1#3 ↔ ∃ b, s.sample.fetch = .payCommit b) ∧
    (t.evOut = 2#3 ↔
      s.sample.fetch = .hdrTimeout ∨ s.sample.fetch = .payTimeout ∨ s.sample.fetch = .discTimeout) ∧
    (t.evOut = 3#3 ↔ ∃ b, s.sample.fetch = .hdrMismatch b) ∧
    (t.evOut = 4#3 ↔ ∃ b, s.sample.fetch = .hdrTooLarge b) ∧
    t.evOut.toNat ≤ 4

/-- R38: only the commit and RESET write the roles; only PAY_BYTE, PAY_COMMIT and RESET write a buffer, the payload rows only the back buffer; so without a reset no step changes a byte of the buffer that is front. -/
def Obligations.OnlyTheCommitMovesTheFront : Prop :=
  ∀ s t : State, step s = .next t →
    (¬ SameRoles s t → s.sample.fetch = .reset ∨ ∃ b, s.sample.fetch = .payCommit b) ∧
    (¬ SameBuffers s t →
      s.sample.fetch = .reset ∨ ∃ b, s.sample.fetch = .payByte b ∨ s.sample.fetch = .payCommit b) ∧
    (s.sample.pins.rst = false →
      ∀ (k : BitVec 1) (off : Half), t.bufByte k off ≠ s.bufByte k off → k = 1#1 - s.front ∧ off = s.cnt) ∧
    (s.sample.pins.rst = false → ∀ off : Half, t.bufByte s.front off = s.bufByte s.front off)

/-- R45, R48, R99: in every step the read port shows the front buffer as it was before the step; a refused read leaves no value (the model's choice, log 10). -/
def Obligations.ReadPortShowsTheStateBeforeTheStep : Prop :=
  ∀ s t : State, step s = .next t →
    (s.nextStimulus.rdAddr.toNat < s.cfg.frameLen → t.out.rdData = some (s.bufByte s.front s.nextStimulus.rdAddr)) ∧
    (s.cfg.frameLen ≤ s.nextStimulus.rdAddr.toNat → t.out.rdData = none)

/-- R104, R19: outside RENDER and HOLD, `tick` has no effect: the steps with either value of it differ in that sampled input alone. -/
def Obligations.TickActsOnlyInTheWaitStates : Prop :=
  ∀ (s : State) (x : Stimulus) (xs : List Stimulus) (b : Bool) (t : State),
    s.st ≠ .render → s.st ≠ .hold → s.script = x :: xs → step s = .next t →
    step { s with script := { x with tick := b } :: xs } = .next { t with pins := { t.pins with tick := b } }

/-- R46, R99: the address presented to the read port changes what the port shows and nothing else. The rules say it for addresses below `FRAME_LEN`; that a step goes on under any other new address is the model's choice (log 10). -/
def Obligations.ReadAddressHasNoSideEffect : Prop :=
  ∀ (s : State) (x : Stimulus) (xs : List Stimulus) (a : Half) (t : State),
    s.script = x :: xs → step s = .next t →
    ∃ d, step { s with script := { x with rdAddr := a } :: xs } =
      .next { t with pins := { t.pins with rdAddr := a }, out := { t.out with rdData := d } }

/-- R21, R47: two states that agree on the front buffer show the same through the read port, whatever the back buffers hold. -/
def Obligations.BackBufferIsInvisible : Prop :=
  ∀ (s : State) (m : List Host.Cell) (t : State),
    (∀ off : Half, State.bufByte { s with mem := m } s.front off = s.bufByte s.front off) →
    step s = .next t → ∃ u, step { s with mem := m } = .next u ∧ u.out = t.out

/-- R140: no error changes the roles or the shown frame. -/
def Obligations.ErrorsKeepTheShownFrame : Prop :=
  ∀ s t : State, step s = .next t →
    t.out.ev = .transportTimeout ∨ t.out.ev = .lengthMismatch ∨ t.out.ev = .lengthTooLarge →
    SameRoles s t ∧ SameBuffers s t

/-- R135: what ends a metadata read, a payload read or a discard. `tick` is not in the list. -/
def Obligations.OnlyTimeoutLastByteOrResetEndsARead : Prop :=
  ∀ s t : State, step s = .next t → (s.st = .hdr ∨ s.st = .payload ∨ s.st = .discard) → t.st ≠ s.st →
    s.sample.pins.rst = true ∨
    (s.sample.pins.rx = none ∧ s.cfg.timeoutMs.toNat ≤ (s.sample.pins.nowMs - s.tLast).toNat) ∨
    (s.sample.pins.rx.isSome = true ∧
      ((s.st = .hdr ∧ s.hcnt = 3#2) ∨ (s.st = .payload ∧ s.cnt.toNat = s.cfg.frameLen - 1) ∨
       (s.st = .discard ∧ s.cnt = 1#16)))

/-- R133: under the time source's duty, `elapsed` rises by at most 1 in a step that consumes no byte and is no reset. -/
def Obligations.ElapsedRisesByAtMostOne : Prop :=
  ∀ s t : State, step s = .next t → s.sample.take = false → s.sample.pins.rst = false →
    TimeDuty s.sample t.sample →
    t.sample.elapsed = s.sample.elapsed ∨ t.sample.elapsed = s.sample.elapsed + 1#32

/-- Every step keeps the canonical form of the memory, the model's way to hold the buffers (log 6). -/
def Obligations.StepKeepsMemoryCanonical : Prop :=
  ∀ s t : State, Memory.wf s.mem = true → step s = .next t → Memory.wf t.mem = true

/-- R64, R113 (e): a stimulus line `B v` is a step that consumes `v` at the unchanged `now_ms`; in RENDER and HOLD, where FSYNC would not consume it, the line is ill-formed. The byte source holds nothing else (log 17). -/
def Obligations.ByteLineIsConsumedOrIllFormed : Prop :=
  ∀ (s : State) (v : Byte), StateInv s → s.rxQueue = [] →
    (s.st ≠ .render → s.st ≠ .hold →
      ∃ t, runLine (.byte v) s = .next t ∧ t.pins.rx = some v ∧ t.rxQueue = [] ∧
        t.pins.nowMs = s.pins.nowMs ∧ t.tLast = s.pins.nowMs) ∧
    (s.st = .render ∨ s.st = .hold → runLine (.byte v) s = .refused .illFormedStimulus)

/-! ### Invariants -/

/-- R124 and R37 at reset: `State.reset` has the registers of R124 (under the model's choice of parameters, log 1), and every such state meets the invariant, the model's own (`StateInv`). -/
def Obligations.InvariantHoldsAtReset : Prop :=
  IsReset State.reset ∧ ∀ s : State, IsReset s → StateInv s

/-- R37 (its DISCARD clause as log 21 reads it), R39, R41, R30: every step keeps the invariant, from every state that meets it. -/
def Obligations.StepKeepsTheInvariant : Prop :=
  ∀ s t : State, StateInv s → step s = .next t → StateInv t

/-- From a reset, whatever the outside agents do, the machine never stops, never meets the reserved state, and a frame it says it has is whole: no byte the port can show is then a draw (R30, R37, R112). That no run stops holds for a step whose `rd_addr` is `FRAME_LEN` or more only by the model's choice (log 10): R113 (b) refuses that read, and R138 says nothing of a run that breaks R130. -/
def Obligations.ReachableStatesRunOn : Prop :=
  ∀ s : State, Reachable s →
    (∃ t, step s = .next t) ∧ s.st ≠ .reserved ∧
    (s.st = .payload → s.cnt.toNat < s.cfg.frameLen) ∧
    (s.st = .discard → 1 ≤ s.cnt.toNat ∧ s.cnt.toNat ≤ s.cfg.discardCeil.toNat) ∧
    (s.hasFrame = true → ∀ off : Half, off.toNat < s.cfg.frameLen →
      (Memory.read s.mem (bufAddr s.front off)).isSome = true)

/-- R37's clause `cnt != FRAME_LEN` in DISCARD, as the spec writes it. It does not hold: a declared length above `FRAME_LEN` counts down through it (log 21). -/
def Obligations.DiscardCountIsNeverTheFrameLength : Prop :=
  ∀ s : State, Reachable s → s.st = .discard → s.cnt.toNat ≠ s.cfg.frameLen

/-- What holds of that clause (R77, R79, R90; DEDUCED, log 21): a step that enters DISCARD loads `cnt` with a declared length within the ceiling that is not 0 and not `FRAME_LEN`; and in every reachable DISCARD state `cnt` has come down from such a length, so it is `FRAME_LEN` only inside the discard of a longer payload. -/
def Obligations.DiscardStartsAtALengthOtherThanTheFrameLength : Prop :=
  (∀ s t : State, step s = .next t → s.st ≠ .discard → t.st = .discard →
    t.cnt = t.lenR ∧ t.lenR ≠ 0#16 ∧ t.lenR.toNat ≠ t.cfg.frameLen ∧ t.lenR.toNat ≤ t.cfg.discardCeil.toNat) ∧
  (∀ s : State, Reachable s → s.st = .discard →
    s.cnt.toNat ≤ s.lenR.toNat ∧ s.lenR.toNat ≠ s.cfg.frameLen ∧
    (s.cnt.toNat = s.cfg.frameLen → s.cfg.frameLen < s.lenR.toNat))

/-- R30: from a state without a frame, `has_frame` is 1 exactly when a commit has happened in the run and no reset since. -/
def Obligations.HasFrameMeansCommitSinceReset : Prop :=
  ∀ (k : Nat) (s t : State), s.hasFrame = false → runSteps k s = .next t →
    (t.hasFrame = true ↔
      ∃ i < k, (∃ u, runSteps (i + 1) s = .next u ∧ u.out.ev = .frameReady) ∧
        ∀ j, i < j → j < k → (s.stimulusAt j).rst = false)

/-- R104: between two commits there is a `tick`, or a reset. -/
def Obligations.CommitsAreSeparatedByATick : Prop :=
  ∀ (k : Nat) (s u t : State), step s = .next u → u.out.ev = .frameReady →
    runSteps (k + 1) u = .next t → t.out.ev = .frameReady →
    ∃ j < k, (u.stimulusAt j).tick = true ∨ (u.stimulusAt j).rst = true

/-- R101: along a run without a commit and without a reset, `front` and every byte of the front buffer are constant. -/
def Obligations.ShownFrameIsStable : Prop :=
  ∀ (k : Nat) (s t : State), runSteps k s = .next t → s.noReset k →
    (∀ j < k, ∀ u, runSteps (j + 1) s = .next u → u.out.ev ≠ .frameReady) →
    t.front = s.front ∧ ∀ off : Half, t.bufByte t.front off = s.bufByte s.front off

/-- R121: the states that wait without limit change no register and no buffer byte until what they wait for comes (whatever the reads, log 10). -/
def Obligations.WaitingChangesNothing : Prop :=
  ∀ (k : Nat) (s : State), s.cfg.ok = true → s.noReset k →
    ((s.st = .idle ∨ s.st = .gotM0) ∧ s.rxQueue = [] ∧ (∀ i < k, (s.stimulusAt i).arrive = [])) ∨
      ((s.st = .render ∨ s.st = .hold) ∧ ∀ i < k, (s.stimulusAt i).tick = false) →
    ∃ t, runSteps k s = .next t ∧ SameRegisters s t ∧ SameBuffers s t ∧ t.rxQueue = s.rxQueue ++ s.arrivals k

/-! ### Headlines -/

/-- A wire frame of the expected length that the byte source holds is received and shown: from IDLE, after `6 + FRAME_LEN` steps without a reset, whatever the time, the ticks, the reads (log 10) and the later bytes, the roles are swapped, the front buffer holds the payload, `last_seq` the sequence number, the old front buffer is untouched, and exactly the frame's bytes are consumed. R53, R78, R87, R103, R137. -/
def Obligations.AcceptedFrameIsShown : Prop :=
  ∀ (s : State) (len seq : Half) (payload rest : List Byte),
    s.cfg.ok = true → s.st = .idle → len.toNat = s.cfg.frameLen → payload.length = s.cfg.frameLen →
    s.rxQueue = wireFrame s.cfg len seq payload ++ rest → s.noReset (6 + s.cfg.frameLen) →
    ∃ t, runSteps (6 + s.cfg.frameLen) s = .next t ∧
      t.st = .render ∧ t.front = 1#1 - s.front ∧ t.hasFrame = true ∧ t.lastSeq = seq ∧ t.out.ev = .frameReady ∧
      (∀ off : Half, off.toNat < s.cfg.frameLen → payload[off.toNat]? = some (t.bufByte t.front off)) ∧
      (∀ off : Half, t.bufByte s.front off = s.bufByte s.front off) ∧
      t.rxQueue = rest ++ s.arrivals (6 + s.cfg.frameLen) ∧ t.cfg = s.cfg

/-- R131: a wire frame of the expected length whose bytes arrive in any pieces is received and shown, as long as no step of an armed read sees both silence and an elapsed timeout: when its last byte is consumed, the roles are swapped and the front buffer holds the payload, whatever the ticks were. -/
def Obligations.PacedFrameIsShown : Prop :=
  ∀ (k : Nat) (s u t : State) (len seq : Half) (payload rest : List Byte),
    s.cfg.ok = true → s.st = .idle → len.toNat = s.cfg.frameLen → payload.length = s.cfg.frameLen →
    runSteps k s = .next u → step u = .next t → s.noReset (k + 1) →
    s.rxQueue ++ s.arrivals (k + 1) = wireFrame s.cfg len seq payload ++ rest →
    (∀ j ≤ k, ∀ v, runSteps j s = .next v → SenderDuty v.sample) →
    u.sample.take = true → t.rxQueue = rest →
    t.st = .render ∧ t.front = 1#1 - s.front ∧ t.hasFrame = true ∧ t.lastSeq = seq ∧ t.out.ev = .frameReady ∧
    ∀ off : Half, off.toNat < s.cfg.frameLen → payload[off.toNat]? = some (t.bufByte t.front off)

/-- R101, R128, R130: reads made in one stay in RENDER all see the payload that was front at its start. -/
def Obligations.RenderWindowReadsOnePayload : Prop :=
  ∀ (k : Nat) (s u t : State), runSteps k s = .next u → step u = .next t →
    (∀ j ≤ k, ∀ v, runSteps j s = .next v → RenderDuty v.sample) → ReadDuty u.sample →
    t.out.rdData = some (s.bufByte s.front u.sample.pins.rdAddr)

/-- R84: a frame with a wrong length within the ceiling is discarded, exactly `length` payload bytes consumed, with nothing shown changed; a valid frame sent right after it is accepted, with no `tick` in between The reads are free (log 10). -/
def Obligations.MismatchedFrameIsDiscardedAndTheNextAccepted : Prop :=
  ∀ (s : State) (bad seq₁ len seq₂ : Half) (junk payload rest : List Byte),
    s.cfg.ok = true → s.st = .idle → bad.toNat ≠ s.cfg.frameLen → bad.toNat ≤ s.cfg.discardCeil.toNat →
    junk.length = bad.toNat → len.toNat = s.cfg.frameLen → payload.length = s.cfg.frameLen →
    s.rxQueue = wireFrame s.cfg bad seq₁ junk ++ (wireFrame s.cfg len seq₂ payload ++ rest) →
    s.noReset (6 + bad.toNat + (6 + s.cfg.frameLen)) →
    (∃ u, runSteps (6 + bad.toNat) s = .next u ∧ u.st = .idle ∧ SameRoles s u ∧ SameBuffers s u ∧
      u.rxQueue = wireFrame s.cfg len seq₂ payload ++ rest ++ s.arrivals (6 + bad.toNat)) ∧
    (∃ t, runSteps (6 + bad.toNat + (6 + s.cfg.frameLen)) s = .next t ∧ t.st = .render ∧
      t.front = 1#1 - s.front ∧ t.lastSeq = seq₂ ∧
      ∀ off : Half, off.toNat < s.cfg.frameLen → payload[off.toNat]? = some (t.bufByte t.front off))

/-- R80, R97, R98: after a header whose length is above the ceiling nothing is consumed until a `tick`, which returns FSYNC to IDLE; the roles and the buffers stay The reads are free (log 10). -/
def Obligations.TooLargeHeaderHoldsUntilTick : Prop :=
  ∀ (k : Nat) (s : State) (len seq : Half) (rest : List Byte),
    s.cfg.ok = true → s.st = .idle → len.toNat ≠ s.cfg.frameLen → s.cfg.discardCeil.toNat < len.toNat →
    s.rxQueue = wireHeader s.cfg len seq ++ rest → s.noReset (6 + k + 1) →
    (∀ i, 6 ≤ i → i < 6 + k → (s.stimulusAt i).tick = false) → (s.stimulusAt (6 + k)).tick = true →
    (∃ u, runSteps 6 s = .next u ∧ u.st = .hold ∧ u.out.ev = .lengthTooLarge) ∧
    (∃ u, runSteps (6 + k) s = .next u ∧ u.st = .hold ∧ u.rxQueue = rest ++ s.arrivals (6 + k)) ∧
    (∃ t, runSteps (6 + k + 1) s = .next t ∧ t.st = .idle ∧ SameRoles s t ∧ SameBuffers s t ∧
      t.rxQueue = rest ++ s.arrivals (6 + k + 1))

/-- R85, R81, R88, R93, R106: a read left without a byte, while `now_ms` rises by 1 a step from `t_last`, is abandoned in the step in which the silence reaches `T_TIMEOUT_MS`, not before, and nothing shown changes The reads are free (log 10). -/
def Obligations.SilenceAbandonsTheRead : Prop :=
  ∀ s : State, s.cfg.ok = true → (s.st = .hdr ∨ s.st = .payload ∨ s.st = .discard) → s.rxQueue = [] →
    (∀ i < s.cfg.timeoutMs.toNat, (s.stimulusAt i).rst = false ∧ (s.stimulusAt i).arrive = [] ∧
      (s.stimulusAt i).nowMs = s.tLast + BitVec.ofNat 32 (i + 1)) →
    (∀ k < s.cfg.timeoutMs.toNat, ∃ u, runSteps k s = .next u ∧ SameRegisters s u ∧ SameBuffers s u) ∧
    (∃ t, runSteps s.cfg.timeoutMs.toNat s = .next t ∧ t.st = .idle ∧ t.out.ev = .transportTimeout ∧
      SameRoles s t ∧ SameBuffers s t)

/-- R139: two frames with the same payload, released by a `tick` between them, show the same bytes, the second in the other buffer The reads are free (log 10). -/
def Obligations.SameFrameTwiceShowsTheSame : Prop :=
  ∀ (s : State) (len seq₁ seq₂ : Half) (payload rest : List Byte),
    s.cfg.ok = true → s.st = .idle → len.toNat = s.cfg.frameLen → payload.length = s.cfg.frameLen →
    s.rxQueue = wireFrame s.cfg len seq₁ payload ++ (wireFrame s.cfg len seq₂ payload ++ rest) →
    s.noReset (6 + s.cfg.frameLen + 1 + (6 + s.cfg.frameLen)) →
    (s.stimulusAt (6 + s.cfg.frameLen)).tick = true →
    ∃ u t, runSteps (6 + s.cfg.frameLen) s = .next u ∧
      runSteps (6 + s.cfg.frameLen + 1 + (6 + s.cfg.frameLen)) s = .next t ∧
      u.hasFrame = true ∧ t.hasFrame = true ∧ t.front = 1#1 - u.front ∧
      (∀ off : Half, off.toNat < s.cfg.frameLen → t.bufByte t.front off = u.bufByte u.front off) ∧
      (∀ (c : Fin 2) (j : Nat), j < channelSize s.cfg c → pixelAt t c j = pixelAt u c j)

/-- R73, R69: a first marker byte that fails as the second one is not tested again: `MARKER0 MARKER0 MARKER1` finds no marker The reads are free (log 10). -/
def Obligations.FailedSecondByteIsNotTestedAgain : Prop :=
  ∀ (s : State) (rest : List Byte), s.cfg.ok = true → s.st = .idle → s.cfg.marker0 ≠ s.cfg.marker1 →
    s.rxQueue = s.cfg.marker0 :: s.cfg.marker0 :: s.cfg.marker1 :: rest → s.noReset 3 →
    ∃ t, runSteps 3 s = .next t ∧ t.st = .idle ∧ SameRoles s t ∧ SameBuffers s t ∧ SameHeader s t ∧
      t.rxQueue = rest ++ s.arrivals 3

/-! ### The renderer contract -/

/-- R102, R55: a front buffer that holds a payload shows each channel's pixels as consecutive triples of it. -/
def Obligations.PixelsAreThePayloadTriples : Prop :=
  ∀ (s : State) (payload : List Byte) (c : Fin 2) (j : Nat),
    s.cfg.ok = true → payload.length = s.cfg.frameLen →
    (∀ off : Half, off.toNat < s.cfg.frameLen → payload[off.toNat]? = some (s.bufByte s.front off)) →
    j < channelSize s.cfg c →
    payload[3 * (channelOffset s.cfg c + j)]? = some (pixelAt s c j).1 ∧
    payload[3 * (channelOffset s.cfg c + j) + 1]? = some (pixelAt s c j).2.1 ∧
    payload[3 * (channelOffset s.cfg c + j) + 2]? = some (pixelAt s c j).2.2

/-- R6, R55: the channels' index ranges are contiguous and together exactly cover the pixels: every global pixel is one local pixel of one channel, and only one. -/
def Obligations.ChannelsPartitionThePixels : Prop :=
  ∀ (p : Params) (i : Nat),
    (i < p.totalPixels ↔ (channelOf p i).2 < channelSize p (channelOf p i).1) ∧
    (i < p.totalPixels →
      channelOffset p (channelOf p i).1 + (channelOf p i).2 = i ∧
      ∀ (c : Fin 2) (j : Nat), j < channelSize p c → channelOffset p c + j = i → (c, j) = channelOf p i)
end

