-- ==== Sys2Proof/Laws/PerInstr.lean ====
section
/-! SUPPORT. Per operation: the word the encoder writes is one its row of the operation map applies to (30_encoding.md R58 to R60). -/

namespace Sys2Proof

theorem Instr.wf_ok {p : Params} {i : Instr} (h : i.wf p = true) : p.ok = true := by
  simp only [Instr.wf, Bool.and_eq_true] at h
  exact h.1

theorem Params.ok_iff (p : Params) :
    p.ok = true ↔ 1 ≤ p.frameLen ∧ p.frameLen ≤ 65535 ∧ 1 ≤ p.timeoutMs.toNat := by
  simp [Params.ok, and_assoc]

/-- `FRAME_LEN` is a multiple of 3, so under R7 it is at least 3. -/
theorem Params.three_le_frameLen {p : Params} (h : p.ok = true) : 3 ≤ p.frameLen := by
  have h1 := ((Params.ok_iff p).mp h).1
  simp only [Params.frameLen] at h1 ⊢
  omega

theorem ofNat_frameLen {p : Params} (h : p.ok = true) : (BitVec.ofNat 16 p.frameLen).toNat = p.frameLen := by
  have h2 := ((Params.ok_iff p).mp h).2.1
  rw [BitVec.toNat_ofNat]
  exact Nat.mod_eq_of_lt (by omega)

theorem ofNat_lastOffset {p : Params} (h : p.ok = true) :
    (BitVec.ofNat 16 (p.frameLen - 1)).toNat = p.frameLen - 1 := by
  have h2 := ((Params.ok_iff p).mp h).2.1
  rw [BitVec.toNat_ofNat]
  exact Nat.mod_eq_of_lt (by omega)

/-! ### The verdicts (R77) -/

theorem classify_eq_accept {p : Params} {len : Half} : classify p len = .accept ↔ len.toNat = p.frameLen := by
  simp only [classify]
  split
  · simp_all
  · split <;> simp_all

theorem classify_eq_mismatch {p : Params} {len : Half} :
    classify p len = .mismatch ↔ len.toNat ≠ p.frameLen ∧ len.toNat ≤ p.discardCeil.toNat := by
  simp only [classify]
  split
  · simp_all
  · split <;> simp_all

theorem classify_eq_tooLarge {p : Params} {len : Half} :
    classify p len = .tooLarge ↔ len.toNat ≠ p.frameLen ∧ p.discardCeil.toNat < len.toNat := by
  simp only [classify]
  split
  · simp_all
  · split <;> simp_all

theorem classify_tooLargeLen {p : Params} (h : p.hasTooLarge = true) : classify p (tooLargeLen p) = .tooLarge := by
  rw [classify_eq_tooLarge]
  simp only [Params.hasTooLarge, Bool.or_eq_true, Bool.and_eq_true, decide_eq_true_eq] at h
  simp only [tooLargeLen]
  split <;> simp <;> omega

end Sys2Proof

namespace Sys2Proof.Laws.EncodeMeetsRow

/-- The encoder's word of a well-formed operation meets its row's match, mask and guard; FRONT_READ's word is its address. -/
def Statement (i : Instr) : Prop :=
  ∀ p : Params, i.wf p = true →
    match encode p i with
    | .sel x => ∃ r, rowOf i = some r ∧ r.applies p x = true
    | .rdport addr => rowOf i = none ∧ i = .frontRead addr

theorem reset : Statement .reset := by
  intro p _; exact ⟨_, rfl, by simp [Row.applies, Guard.holds]⟩
theorem idleM0 (b : Byte) : Statement (.idleM0 b) := by
  intro p h; simp only [Instr.wf, Bool.and_eq_true, decide_eq_true_eq] at h
  exact ⟨_, rfl, by simp [Row.applies, Guard.holds, h.2]⟩
theorem idleSkip (b : Byte) : Statement (.idleSkip b) := by
  intro p h; simp only [Instr.wf, Bool.and_eq_true, decide_eq_true_eq] at h
  exact ⟨_, rfl, by simp [Row.applies, Guard.holds, h.2]⟩
theorem idleWait : Statement .idleWait := by
  intro p _; exact ⟨_, rfl, by simp [Row.applies, Guard.holds]⟩
theorem gotM1 (b : Byte) : Statement (.gotM1 b) := by
  intro p h; simp only [Instr.wf, Bool.and_eq_true, decide_eq_true_eq] at h
  exact ⟨_, rfl, by simp [Row.applies, Guard.holds, h.2]⟩
theorem gotFail (b : Byte) : Statement (.gotFail b) := by
  intro p h; simp only [Instr.wf, Bool.and_eq_true, decide_eq_true_eq] at h
  exact ⟨_, rfl, by simp [Row.applies, Guard.holds, h.2]⟩
theorem gotWait : Statement .gotWait := by
  intro p _; exact ⟨_, rfl, by simp [Row.applies, Guard.holds]⟩
theorem hdrByte (b : Byte) : Statement (.hdrByte b) := by
  intro p _; exact ⟨_, rfl, by simp [Row.applies, Guard.holds]⟩
theorem hdrAccept (b : Byte) : Statement (.hdrAccept b) := by
  intro p h
  exact ⟨_, rfl, by simp [Row.applies, Guard.holds, classify_eq_accept, ofNat_frameLen (Instr.wf_ok h), -BitVec.toNat_ofNat]⟩
theorem hdrMismatch (b : Byte) : Statement (.hdrMismatch b) := by
  intro p h
  have h3 := Params.three_le_frameLen (Instr.wf_ok h)
  exact ⟨_, rfl, by simp [Row.applies, Guard.holds, classify_eq_mismatch]; omega⟩
theorem hdrTooLarge (b : Byte) : Statement (.hdrTooLarge b) := by
  intro p h
  simp only [Instr.wf, Bool.and_eq_true] at h
  exact ⟨_, rfl, by simp [Row.applies, Guard.holds, classify_tooLargeLen h.2]⟩
theorem hdrTimeout : Statement .hdrTimeout := by
  intro p _; exact ⟨_, rfl, by simp [Row.applies, Guard.holds]⟩
theorem hdrWait : Statement .hdrWait := by
  intro p _; exact ⟨_, rfl, by simp [Row.applies, Guard.holds]⟩
theorem payByte (b : Byte) : Statement (.payByte b) := by
  intro p h
  have h3 := Params.three_le_frameLen (Instr.wf_ok h)
  exact ⟨_, rfl, by simp [Row.applies, Guard.holds]; omega⟩
theorem payCommit (b : Byte) : Statement (.payCommit b) := by
  intro p h
  exact ⟨_, rfl, by simp [Row.applies, Guard.holds, ofNat_lastOffset (Instr.wf_ok h), -BitVec.toNat_ofNat]⟩
theorem payTimeout : Statement .payTimeout := by
  intro p _; exact ⟨_, rfl, by simp [Row.applies, Guard.holds]⟩
theorem payWait : Statement .payWait := by
  intro p _; exact ⟨_, rfl, by simp [Row.applies, Guard.holds]⟩
theorem discByte (b : Byte) : Statement (.discByte b) := by
  intro p _; exact ⟨_, rfl, by simp [Row.applies, Guard.holds]⟩
theorem discDone (b : Byte) : Statement (.discDone b) := by
  intro p _; exact ⟨_, rfl, by simp [Row.applies, Guard.holds]⟩
theorem discTimeout : Statement .discTimeout := by
  intro p _; exact ⟨_, rfl, by simp [Row.applies, Guard.holds]⟩
theorem discWait : Statement .discWait := by
  intro p _; exact ⟨_, rfl, by simp [Row.applies, Guard.holds]⟩
theorem renderRelease : Statement .renderRelease := by
  intro p _; exact ⟨_, rfl, by simp [Row.applies, Guard.holds]⟩
theorem renderHold : Statement .renderHold := by
  intro p _; exact ⟨_, rfl, by simp [Row.applies, Guard.holds]⟩
theorem holdRelease : Statement .holdRelease := by
  intro p _; exact ⟨_, rfl, by simp [Row.applies, Guard.holds]⟩
theorem holdHold : Statement .holdHold := by
  intro p _; exact ⟨_, rfl, by simp [Row.applies, Guard.holds]⟩
theorem reservedState : Statement .reservedState := by
  intro p _; exact ⟨_, rfl, by simp [Row.applies, Guard.holds]⟩
theorem frontRead (addr : Half) : Statement (.frontRead addr) := by
  intro p _; exact ⟨rfl, rfl⟩

end Sys2Proof.Laws.EncodeMeetsRow
end

