-- ==== Sys2Proof/Laws/Decode.lean ====
section
/-! SUPPORT. The match and mask pairs of the operation map R60, read as the bits of the selector they test (R58). -/

namespace Sys2Proof

set_option maxRecDepth 20000

/-- The pair of RESET. -/
theorem sel_reset_iff (x : Selector) : x.sel &&& 0x40#7 = 0x40#7 ↔ x.rst = true := by
  have h : ∀ s : BitVec 7, s &&& 0x40#7 = 0x40#7 ↔ s.getLsbD 6 = true := by decide
  exact h x.sel

/-- The pairs of the rows that consume a byte in state `c`. -/
theorem sel_byte_iff (x : Selector) (c : BitVec 3) :
    x.sel &&& 0x4F#7 = 0x08#7 ||| c.setWidth 7 ↔ x.rst = false ∧ x.rxv = true ∧ x.stField = c := by
  have h : ∀ (s : BitVec 7) (c : BitVec 3), s &&& 0x4F#7 = 0x08#7 ||| c.setWidth 7 ↔
      s.getLsbD 6 = false ∧ s.getLsbD 3 = true ∧ s.extractLsb' 0 3 = c := by decide
  exact h x.sel c

/-- The pairs of the WAIT rows of the marker scan. -/
theorem sel_scanWait_iff (x : Selector) (c : BitVec 3) :
    x.sel &&& 0x4F#7 = c.setWidth 7 ↔ x.rst = false ∧ x.rxv = false ∧ x.stField = c := by
  have h : ∀ (s : BitVec 7) (c : BitVec 3), s &&& 0x4F#7 = c.setWidth 7 ↔
      s.getLsbD 6 = false ∧ s.getLsbD 3 = false ∧ s.extractLsb' 0 3 = c := by decide
  exact h x.sel c

/-- The pairs of the TIMEOUT rows. -/
theorem sel_timeout_iff (x : Selector) (c : BitVec 3) :
    x.sel &&& 0x5F#7 = 0x10#7 ||| c.setWidth 7 ↔
      x.rst = false ∧ x.rxv = false ∧ x.tmo = true ∧ x.stField = c := by
  have h : ∀ (s : BitVec 7) (c : BitVec 3), s &&& 0x5F#7 = 0x10#7 ||| c.setWidth 7 ↔
      s.getLsbD 6 = false ∧ s.getLsbD 3 = false ∧ s.getLsbD 4 = true ∧ s.extractLsb' 0 3 = c := by decide
  exact h x.sel c

/-- The pairs of the WAIT rows of the armed reads. -/
theorem sel_armedWait_iff (x : Selector) (c : BitVec 3) :
    x.sel &&& 0x5F#7 = c.setWidth 7 ↔ x.rst = false ∧ x.rxv = false ∧ x.tmo = false ∧ x.stField = c := by
  have h : ∀ (s : BitVec 7) (c : BitVec 3), s &&& 0x5F#7 = c.setWidth 7 ↔
      s.getLsbD 6 = false ∧ s.getLsbD 3 = false ∧ s.getLsbD 4 = false ∧ s.extractLsb' 0 3 = c := by decide
  exact h x.sel c

/-- The pairs of the RELEASE rows. -/
theorem sel_release_iff (x : Selector) (c : BitVec 3) :
    x.sel &&& 0x67#7 = 0x20#7 ||| c.setWidth 7 ↔ x.rst = false ∧ x.tick = true ∧ x.stField = c := by
  have h : ∀ (s : BitVec 7) (c : BitVec 3), s &&& 0x67#7 = 0x20#7 ||| c.setWidth 7 ↔
      s.getLsbD 6 = false ∧ s.getLsbD 5 = true ∧ s.extractLsb' 0 3 = c := by decide
  exact h x.sel c

/-- The pairs of the HOLD rows. -/
theorem sel_hold_iff (x : Selector) (c : BitVec 3) :
    x.sel &&& 0x67#7 = c.setWidth 7 ↔ x.rst = false ∧ x.tick = false ∧ x.stField = c := by
  have h : ∀ (s : BitVec 7) (c : BitVec 3), s &&& 0x67#7 = c.setWidth 7 ↔
      s.getLsbD 6 = false ∧ s.getLsbD 5 = false ∧ s.extractLsb' 0 3 = c := by decide
  exact h x.sel c

/-- The pair of RESERVED_STATE. -/
theorem sel_reserved_iff (x : Selector) (c : BitVec 3) :
    x.sel &&& 0x47#7 = c.setWidth 7 ↔ x.rst = false ∧ x.stField = c := by
  have h : ∀ (s : BitVec 7) (c : BitVec 3), s &&& 0x47#7 = c.setWidth 7 ↔
      s.getLsbD 6 = false ∧ s.extractLsb' 0 3 = c := by decide
  exact h x.sel c

/-- The eight values of the state field. -/
theorem stField_cases (x : Selector) : x.stField = 0#3 ∨ x.stField = 1#3 ∨ x.stField = 2#3 ∨ x.stField = 3#3 ∨
    x.stField = 4#3 ∨ x.stField = 5#3 ∨ x.stField = 6#3 ∨ x.stField = 7#3 := by
  have h : ∀ c : BitVec 3, c = 0#3 ∨ c = 1#3 ∨ c = 2#3 ∨ c = 3#3 ∨ c = 4#3 ∨ c = 5#3 ∨ c = 6#3 ∨ c = 7#3 := by
    decide
  exact h x.stField

end Sys2Proof
end

