-- ==== Sys2Proof/Laws/Fields.lean ====
section
/-! SUPPORT. The 16-bit fields as numbers (00_scope.md R10, 30_encoding.md R54) and the timeout condition as a comparison (42_payload_discard.md R85). -/

namespace Sys2Proof.Machine

theorem toNat_concat {m n : Nat} (a : BitVec m) (b : BitVec n) : (a ++ b).toNat = a.toNat * 2 ^ n + b.toNat := by
  rw [BitVec.toNat_append, Nat.shiftLeft_eq, Nat.mul_comm, ← Nat.two_pow_add_eq_or_of_lt b.isLt]

theorem u16le_toNat (lo hi : Byte) : (u16le lo hi).toNat = lo.toNat + 256 * hi.toNat := by
  have h1 := lo.isLt
  have h2 := hi.isLt
  have h3 : lo.toNat % 2 ^ 16 = lo.toNat := Nat.mod_eq_of_lt (by omega)
  have h4 : hi.toNat % 2 ^ 16 = hi.toNat := Nat.mod_eq_of_lt (by omega)
  rw [u16le, BitVec.toNat_or, BitVec.toNat_shiftLeft, BitVec.toNat_setWidth, BitVec.toNat_setWidth, Nat.or_comm,
    Nat.shiftLeft_eq, h3, h4, Nat.mod_eq_of_lt (by omega), Nat.mul_comm, ← Nat.two_pow_add_eq_or_of_lt h1]
  omega

theorem lowByte_toNat (w : Half) : (lowByte w).toNat = w.toNat % 256 := by
  simp [lowByte]

theorem highByte_toNat (w : Half) : (highByte w).toNat = w.toNat / 256 := by
  have h := w.isLt
  simp only [highByte, BitVec.extractLsb'_toNat, Nat.shiftRight_eq_div_pow]
  exact Nat.mod_eq_of_lt (by omega)

/-- A field is assembled from its own bytes. -/
theorem u16le_lowByte_highByte (w : Half) : u16le (lowByte w) (highByte w) = w := by
  apply BitVec.eq_of_toNat_eq
  rw [u16le_toNat, lowByte_toNat, highByte_toNat]
  omega

@[simp] theorem lowByte_u16le (lo hi : Byte) : lowByte (u16le lo hi) = lo := by
  have h := lo.isLt
  apply BitVec.eq_of_toNat_eq
  rw [lowByte_toNat, u16le_toNat]
  omega

@[simp] theorem highByte_u16le (lo hi : Byte) : highByte (u16le lo hi) = hi := by
  have h := lo.isLt
  apply BitVec.eq_of_toNat_eq
  rw [highByte_toNat, u16le_toNat]
  omega

theorem setLow_eq_concat (w : Half) (b : Byte) : setLow w b = w.extractLsb' 8 8 ++ b := by
  apply BitVec.eq_of_toNat_eq
  have h : (w.extractLsb' 8 8 ++ b).toNat = (highByte w).toNat * 2 ^ 8 + b.toNat := toNat_concat _ _
  rw [setLow, u16le_toNat]
  refine Eq.trans ?_ h.symm
  omega

theorem setHigh_eq_concat (w : Half) (b : Byte) : setHigh w b = b ++ w.extractLsb' 0 8 := by
  apply BitVec.eq_of_toNat_eq
  have h : (b ++ w.extractLsb' 0 8).toNat = b.toNat * 2 ^ 8 + (lowByte w).toNat := toNat_concat _ _
  rw [setHigh, u16le_toNat]
  refine Eq.trans ?_ h.symm
  omega

theorem tmo_eq_true_iff (s : State) :
    s.tmo = true ↔ s.cfg.timeoutMs.toNat ≤ (s.pins.nowMs - s.tLast).toNat :=
  decide_eq_true_iff

theorem tmo_eq_false_iff (s : State) :
    s.tmo = false ↔ (s.pins.nowMs - s.tLast).toNat < s.cfg.timeoutMs.toNat :=
  decide_eq_false_iff_not.trans Nat.not_le

end Sys2Proof.Machine
end

