-- ==== Sys2Proof/Laws/State.lean ====
section
/-! SUPPORT. The fields of State after each shared update: one lemma per field per update. -/

namespace Sys2Proof.Machine

/-! ### State.emit -/

@[simp] theorem emit_cfg (e : Event) (s : State) : (s.emit e).cfg = s.cfg := rfl
@[simp] theorem emit_st (e : Event) (s : State) : (s.emit e).st = s.st := rfl
@[simp] theorem emit_hcnt (e : Event) (s : State) : (s.emit e).hcnt = s.hcnt := rfl
@[simp] theorem emit_lenR (e : Event) (s : State) : (s.emit e).lenR = s.lenR := rfl
@[simp] theorem emit_seqR (e : Event) (s : State) : (s.emit e).seqR = s.seqR := rfl
@[simp] theorem emit_cnt (e : Event) (s : State) : (s.emit e).cnt = s.cnt := rfl
@[simp] theorem emit_tLast (e : Event) (s : State) : (s.emit e).tLast = s.tLast := rfl
@[simp] theorem emit_front (e : Event) (s : State) : (s.emit e).front = s.front := rfl
@[simp] theorem emit_hasFrame (e : Event) (s : State) : (s.emit e).hasFrame = s.hasFrame := rfl
@[simp] theorem emit_lastSeq (e : Event) (s : State) : (s.emit e).lastSeq = s.lastSeq := rfl
@[simp] theorem emit_mem (e : Event) (s : State) : (s.emit e).mem = s.mem := rfl
@[simp] theorem emit_pins (e : Event) (s : State) : (s.emit e).pins = s.pins := rfl
@[simp] theorem emit_rxQueue (e : Event) (s : State) : (s.emit e).rxQueue = s.rxQueue := rfl
@[simp] theorem emit_script (e : Event) (s : State) : (s.emit e).script = s.script := rfl
@[simp] theorem emit_steps (e : Event) (s : State) : (s.emit e).steps = s.steps := rfl
@[simp] theorem emit_epoch (e : Event) (s : State) : (s.emit e).epoch = s.epoch := rfl
@[simp] theorem emit_out (e : Event) (s : State) : (s.emit e).out = { s.out with ev := e } := rfl

/-! ### State.drive -/

@[simp] theorem drive_cfg (d : Option Byte) (s : State) : (s.drive d).cfg = s.cfg := rfl
@[simp] theorem drive_st (d : Option Byte) (s : State) : (s.drive d).st = s.st := rfl
@[simp] theorem drive_hcnt (d : Option Byte) (s : State) : (s.drive d).hcnt = s.hcnt := rfl
@[simp] theorem drive_lenR (d : Option Byte) (s : State) : (s.drive d).lenR = s.lenR := rfl
@[simp] theorem drive_seqR (d : Option Byte) (s : State) : (s.drive d).seqR = s.seqR := rfl
@[simp] theorem drive_cnt (d : Option Byte) (s : State) : (s.drive d).cnt = s.cnt := rfl
@[simp] theorem drive_tLast (d : Option Byte) (s : State) : (s.drive d).tLast = s.tLast := rfl
@[simp] theorem drive_front (d : Option Byte) (s : State) : (s.drive d).front = s.front := rfl
@[simp] theorem drive_hasFrame (d : Option Byte) (s : State) : (s.drive d).hasFrame = s.hasFrame := rfl
@[simp] theorem drive_lastSeq (d : Option Byte) (s : State) : (s.drive d).lastSeq = s.lastSeq := rfl
@[simp] theorem drive_mem (d : Option Byte) (s : State) : (s.drive d).mem = s.mem := rfl
@[simp] theorem drive_pins (d : Option Byte) (s : State) : (s.drive d).pins = s.pins := rfl
@[simp] theorem drive_rxQueue (d : Option Byte) (s : State) : (s.drive d).rxQueue = s.rxQueue := rfl
@[simp] theorem drive_script (d : Option Byte) (s : State) : (s.drive d).script = s.script := rfl
@[simp] theorem drive_steps (d : Option Byte) (s : State) : (s.drive d).steps = s.steps := rfl
@[simp] theorem drive_epoch (d : Option Byte) (s : State) : (s.drive d).epoch = s.epoch := rfl
@[simp] theorem drive_out (d : Option Byte) (s : State) : (s.drive d).out = { s.out with rdData := d } := rfl

/-! ### State.goto -/

@[simp] theorem goto_cfg (x : SyncState) (s : State) : (s.goto x).cfg = s.cfg := rfl
@[simp] theorem goto_st (x : SyncState) (s : State) : (s.goto x).st = x := rfl
@[simp] theorem goto_hcnt (x : SyncState) (s : State) : (s.goto x).hcnt = s.hcnt := rfl
@[simp] theorem goto_lenR (x : SyncState) (s : State) : (s.goto x).lenR = s.lenR := rfl
@[simp] theorem goto_seqR (x : SyncState) (s : State) : (s.goto x).seqR = s.seqR := rfl
@[simp] theorem goto_cnt (x : SyncState) (s : State) : (s.goto x).cnt = s.cnt := rfl
@[simp] theorem goto_tLast (x : SyncState) (s : State) : (s.goto x).tLast = s.tLast := rfl
@[simp] theorem goto_front (x : SyncState) (s : State) : (s.goto x).front = s.front := rfl
@[simp] theorem goto_hasFrame (x : SyncState) (s : State) : (s.goto x).hasFrame = s.hasFrame := rfl
@[simp] theorem goto_lastSeq (x : SyncState) (s : State) : (s.goto x).lastSeq = s.lastSeq := rfl
@[simp] theorem goto_mem (x : SyncState) (s : State) : (s.goto x).mem = s.mem := rfl
@[simp] theorem goto_pins (x : SyncState) (s : State) : (s.goto x).pins = s.pins := rfl
@[simp] theorem goto_rxQueue (x : SyncState) (s : State) : (s.goto x).rxQueue = s.rxQueue := rfl
@[simp] theorem goto_script (x : SyncState) (s : State) : (s.goto x).script = s.script := rfl
@[simp] theorem goto_steps (x : SyncState) (s : State) : (s.goto x).steps = s.steps := rfl
@[simp] theorem goto_epoch (x : SyncState) (s : State) : (s.goto x).epoch = s.epoch := rfl
@[simp] theorem goto_out (x : SyncState) (s : State) : (s.goto x).out = s.out := rfl

/-! ### State.setHcnt -/

@[simp] theorem setHcnt_cfg (x : BitVec 2) (s : State) : (s.setHcnt x).cfg = s.cfg := rfl
@[simp] theorem setHcnt_st (x : BitVec 2) (s : State) : (s.setHcnt x).st = s.st := rfl
@[simp] theorem setHcnt_hcnt (x : BitVec 2) (s : State) : (s.setHcnt x).hcnt = x := rfl
@[simp] theorem setHcnt_lenR (x : BitVec 2) (s : State) : (s.setHcnt x).lenR = s.lenR := rfl
@[simp] theorem setHcnt_seqR (x : BitVec 2) (s : State) : (s.setHcnt x).seqR = s.seqR := rfl
@[simp] theorem setHcnt_cnt (x : BitVec 2) (s : State) : (s.setHcnt x).cnt = s.cnt := rfl
@[simp] theorem setHcnt_tLast (x : BitVec 2) (s : State) : (s.setHcnt x).tLast = s.tLast := rfl
@[simp] theorem setHcnt_front (x : BitVec 2) (s : State) : (s.setHcnt x).front = s.front := rfl
@[simp] theorem setHcnt_hasFrame (x : BitVec 2) (s : State) : (s.setHcnt x).hasFrame = s.hasFrame := rfl
@[simp] theorem setHcnt_lastSeq (x : BitVec 2) (s : State) : (s.setHcnt x).lastSeq = s.lastSeq := rfl
@[simp] theorem setHcnt_mem (x : BitVec 2) (s : State) : (s.setHcnt x).mem = s.mem := rfl
@[simp] theorem setHcnt_pins (x : BitVec 2) (s : State) : (s.setHcnt x).pins = s.pins := rfl
@[simp] theorem setHcnt_rxQueue (x : BitVec 2) (s : State) : (s.setHcnt x).rxQueue = s.rxQueue := rfl
@[simp] theorem setHcnt_script (x : BitVec 2) (s : State) : (s.setHcnt x).script = s.script := rfl
@[simp] theorem setHcnt_steps (x : BitVec 2) (s : State) : (s.setHcnt x).steps = s.steps := rfl
@[simp] theorem setHcnt_epoch (x : BitVec 2) (s : State) : (s.setHcnt x).epoch = s.epoch := rfl
@[simp] theorem setHcnt_out (x : BitVec 2) (s : State) : (s.setHcnt x).out = s.out := rfl

/-! ### State.setLenR -/

@[simp] theorem setLenR_cfg (x : Half) (s : State) : (s.setLenR x).cfg = s.cfg := rfl
@[simp] theorem setLenR_st (x : Half) (s : State) : (s.setLenR x).st = s.st := rfl
@[simp] theorem setLenR_hcnt (x : Half) (s : State) : (s.setLenR x).hcnt = s.hcnt := rfl
@[simp] theorem setLenR_lenR (x : Half) (s : State) : (s.setLenR x).lenR = x := rfl
@[simp] theorem setLenR_seqR (x : Half) (s : State) : (s.setLenR x).seqR = s.seqR := rfl
@[simp] theorem setLenR_cnt (x : Half) (s : State) : (s.setLenR x).cnt = s.cnt := rfl
@[simp] theorem setLenR_tLast (x : Half) (s : State) : (s.setLenR x).tLast = s.tLast := rfl
@[simp] theorem setLenR_front (x : Half) (s : State) : (s.setLenR x).front = s.front := rfl
@[simp] theorem setLenR_hasFrame (x : Half) (s : State) : (s.setLenR x).hasFrame = s.hasFrame := rfl
@[simp] theorem setLenR_lastSeq (x : Half) (s : State) : (s.setLenR x).lastSeq = s.lastSeq := rfl
@[simp] theorem setLenR_mem (x : Half) (s : State) : (s.setLenR x).mem = s.mem := rfl
@[simp] theorem setLenR_pins (x : Half) (s : State) : (s.setLenR x).pins = s.pins := rfl
@[simp] theorem setLenR_rxQueue (x : Half) (s : State) : (s.setLenR x).rxQueue = s.rxQueue := rfl
@[simp] theorem setLenR_script (x : Half) (s : State) : (s.setLenR x).script = s.script := rfl
@[simp] theorem setLenR_steps (x : Half) (s : State) : (s.setLenR x).steps = s.steps := rfl
@[simp] theorem setLenR_epoch (x : Half) (s : State) : (s.setLenR x).epoch = s.epoch := rfl
@[simp] theorem setLenR_out (x : Half) (s : State) : (s.setLenR x).out = s.out := rfl

/-! ### State.setSeqR -/

@[simp] theorem setSeqR_cfg (x : Half) (s : State) : (s.setSeqR x).cfg = s.cfg := rfl
@[simp] theorem setSeqR_st (x : Half) (s : State) : (s.setSeqR x).st = s.st := rfl
@[simp] theorem setSeqR_hcnt (x : Half) (s : State) : (s.setSeqR x).hcnt = s.hcnt := rfl
@[simp] theorem setSeqR_lenR (x : Half) (s : State) : (s.setSeqR x).lenR = s.lenR := rfl
@[simp] theorem setSeqR_seqR (x : Half) (s : State) : (s.setSeqR x).seqR = x := rfl
@[simp] theorem setSeqR_cnt (x : Half) (s : State) : (s.setSeqR x).cnt = s.cnt := rfl
@[simp] theorem setSeqR_tLast (x : Half) (s : State) : (s.setSeqR x).tLast = s.tLast := rfl
@[simp] theorem setSeqR_front (x : Half) (s : State) : (s.setSeqR x).front = s.front := rfl
@[simp] theorem setSeqR_hasFrame (x : Half) (s : State) : (s.setSeqR x).hasFrame = s.hasFrame := rfl
@[simp] theorem setSeqR_lastSeq (x : Half) (s : State) : (s.setSeqR x).lastSeq = s.lastSeq := rfl
@[simp] theorem setSeqR_mem (x : Half) (s : State) : (s.setSeqR x).mem = s.mem := rfl
@[simp] theorem setSeqR_pins (x : Half) (s : State) : (s.setSeqR x).pins = s.pins := rfl
@[simp] theorem setSeqR_rxQueue (x : Half) (s : State) : (s.setSeqR x).rxQueue = s.rxQueue := rfl
@[simp] theorem setSeqR_script (x : Half) (s : State) : (s.setSeqR x).script = s.script := rfl
@[simp] theorem setSeqR_steps (x : Half) (s : State) : (s.setSeqR x).steps = s.steps := rfl
@[simp] theorem setSeqR_epoch (x : Half) (s : State) : (s.setSeqR x).epoch = s.epoch := rfl
@[simp] theorem setSeqR_out (x : Half) (s : State) : (s.setSeqR x).out = s.out := rfl

/-! ### State.setCnt -/

@[simp] theorem setCnt_cfg (x : Half) (s : State) : (s.setCnt x).cfg = s.cfg := rfl
@[simp] theorem setCnt_st (x : Half) (s : State) : (s.setCnt x).st = s.st := rfl
@[simp] theorem setCnt_hcnt (x : Half) (s : State) : (s.setCnt x).hcnt = s.hcnt := rfl
@[simp] theorem setCnt_lenR (x : Half) (s : State) : (s.setCnt x).lenR = s.lenR := rfl
@[simp] theorem setCnt_seqR (x : Half) (s : State) : (s.setCnt x).seqR = s.seqR := rfl
@[simp] theorem setCnt_cnt (x : Half) (s : State) : (s.setCnt x).cnt = x := rfl
@[simp] theorem setCnt_tLast (x : Half) (s : State) : (s.setCnt x).tLast = s.tLast := rfl
@[simp] theorem setCnt_front (x : Half) (s : State) : (s.setCnt x).front = s.front := rfl
@[simp] theorem setCnt_hasFrame (x : Half) (s : State) : (s.setCnt x).hasFrame = s.hasFrame := rfl
@[simp] theorem setCnt_lastSeq (x : Half) (s : State) : (s.setCnt x).lastSeq = s.lastSeq := rfl
@[simp] theorem setCnt_mem (x : Half) (s : State) : (s.setCnt x).mem = s.mem := rfl
@[simp] theorem setCnt_pins (x : Half) (s : State) : (s.setCnt x).pins = s.pins := rfl
@[simp] theorem setCnt_rxQueue (x : Half) (s : State) : (s.setCnt x).rxQueue = s.rxQueue := rfl
@[simp] theorem setCnt_script (x : Half) (s : State) : (s.setCnt x).script = s.script := rfl
@[simp] theorem setCnt_steps (x : Half) (s : State) : (s.setCnt x).steps = s.steps := rfl
@[simp] theorem setCnt_epoch (x : Half) (s : State) : (s.setCnt x).epoch = s.epoch := rfl
@[simp] theorem setCnt_out (x : Half) (s : State) : (s.setCnt x).out = s.out := rfl

/-! ### State.store -/

@[simp] theorem store_cfg (k : BitVec 1) (off : Half) (v : Byte) (s : State) : (s.store k off v).cfg = s.cfg := rfl
@[simp] theorem store_st (k : BitVec 1) (off : Half) (v : Byte) (s : State) : (s.store k off v).st = s.st := rfl
@[simp] theorem store_hcnt (k : BitVec 1) (off : Half) (v : Byte) (s : State) : (s.store k off v).hcnt = s.hcnt := rfl
@[simp] theorem store_lenR (k : BitVec 1) (off : Half) (v : Byte) (s : State) : (s.store k off v).lenR = s.lenR := rfl
@[simp] theorem store_seqR (k : BitVec 1) (off : Half) (v : Byte) (s : State) : (s.store k off v).seqR = s.seqR := rfl
@[simp] theorem store_cnt (k : BitVec 1) (off : Half) (v : Byte) (s : State) : (s.store k off v).cnt = s.cnt := rfl
@[simp] theorem store_tLast (k : BitVec 1) (off : Half) (v : Byte) (s : State) : (s.store k off v).tLast = s.tLast := rfl
@[simp] theorem store_front (k : BitVec 1) (off : Half) (v : Byte) (s : State) : (s.store k off v).front = s.front := rfl
@[simp] theorem store_hasFrame (k : BitVec 1) (off : Half) (v : Byte) (s : State) : (s.store k off v).hasFrame = s.hasFrame := rfl
@[simp] theorem store_lastSeq (k : BitVec 1) (off : Half) (v : Byte) (s : State) : (s.store k off v).lastSeq = s.lastSeq := rfl
@[simp] theorem store_mem (k : BitVec 1) (off : Half) (v : Byte) (s : State) : (s.store k off v).mem = Memory.write s.mem (bufAddr k off) v := rfl
@[simp] theorem store_pins (k : BitVec 1) (off : Half) (v : Byte) (s : State) : (s.store k off v).pins = s.pins := rfl
@[simp] theorem store_rxQueue (k : BitVec 1) (off : Half) (v : Byte) (s : State) : (s.store k off v).rxQueue = s.rxQueue := rfl
@[simp] theorem store_script (k : BitVec 1) (off : Half) (v : Byte) (s : State) : (s.store k off v).script = s.script := rfl
@[simp] theorem store_steps (k : BitVec 1) (off : Half) (v : Byte) (s : State) : (s.store k off v).steps = s.steps := rfl
@[simp] theorem store_epoch (k : BitVec 1) (off : Half) (v : Byte) (s : State) : (s.store k off v).epoch = s.epoch := rfl
@[simp] theorem store_out (k : BitVec 1) (off : Half) (v : Byte) (s : State) : (s.store k off v).out = s.out := rfl

/-! ### State.consume -/

@[simp] theorem consume_cfg (s : State) : (s.consume).cfg = s.cfg := rfl
@[simp] theorem consume_st (s : State) : (s.consume).st = s.st := rfl
@[simp] theorem consume_hcnt (s : State) : (s.consume).hcnt = s.hcnt := rfl
@[simp] theorem consume_lenR (s : State) : (s.consume).lenR = s.lenR := rfl
@[simp] theorem consume_seqR (s : State) : (s.consume).seqR = s.seqR := rfl
@[simp] theorem consume_cnt (s : State) : (s.consume).cnt = s.cnt := rfl
@[simp] theorem consume_tLast (s : State) : (s.consume).tLast = s.pins.nowMs := rfl
@[simp] theorem consume_front (s : State) : (s.consume).front = s.front := rfl
@[simp] theorem consume_hasFrame (s : State) : (s.consume).hasFrame = s.hasFrame := rfl
@[simp] theorem consume_lastSeq (s : State) : (s.consume).lastSeq = s.lastSeq := rfl
@[simp] theorem consume_mem (s : State) : (s.consume).mem = s.mem := rfl
@[simp] theorem consume_pins (s : State) : (s.consume).pins = s.pins := rfl
@[simp] theorem consume_rxQueue (s : State) : (s.consume).rxQueue = s.rxQueue.tail := rfl
@[simp] theorem consume_script (s : State) : (s.consume).script = s.script := rfl
@[simp] theorem consume_steps (s : State) : (s.consume).steps = s.steps := rfl
@[simp] theorem consume_epoch (s : State) : (s.consume).epoch = s.epoch := rfl
@[simp] theorem consume_out (s : State) : (s.consume).out = s.out := rfl

/-! ### State.commit -/

@[simp] theorem commit_cfg (s : State) : (s.commit).cfg = s.cfg := rfl
@[simp] theorem commit_st (s : State) : (s.commit).st = s.st := rfl
@[simp] theorem commit_hcnt (s : State) : (s.commit).hcnt = s.hcnt := rfl
@[simp] theorem commit_lenR (s : State) : (s.commit).lenR = s.lenR := rfl
@[simp] theorem commit_seqR (s : State) : (s.commit).seqR = s.seqR := rfl
@[simp] theorem commit_cnt (s : State) : (s.commit).cnt = s.cnt := rfl
@[simp] theorem commit_tLast (s : State) : (s.commit).tLast = s.tLast := rfl
@[simp] theorem commit_front (s : State) : (s.commit).front = 1#1 - s.front := rfl
@[simp] theorem commit_hasFrame (s : State) : (s.commit).hasFrame = true := rfl
@[simp] theorem commit_lastSeq (s : State) : (s.commit).lastSeq = s.seqR := rfl
@[simp] theorem commit_mem (s : State) : (s.commit).mem = s.mem := rfl
@[simp] theorem commit_pins (s : State) : (s.commit).pins = s.pins := rfl
@[simp] theorem commit_rxQueue (s : State) : (s.commit).rxQueue = s.rxQueue := rfl
@[simp] theorem commit_script (s : State) : (s.commit).script = s.script := rfl
@[simp] theorem commit_steps (s : State) : (s.commit).steps = s.steps := rfl
@[simp] theorem commit_epoch (s : State) : (s.commit).epoch = s.epoch := rfl
@[simp] theorem commit_out (s : State) : (s.commit).out = { s.out with ev := .frameReady } := rfl

/-! ### State.abandon -/

@[simp] theorem abandon_cfg (s : State) : (s.abandon).cfg = s.cfg := rfl
@[simp] theorem abandon_st (s : State) : (s.abandon).st = .idle := rfl
@[simp] theorem abandon_hcnt (s : State) : (s.abandon).hcnt = s.hcnt := rfl
@[simp] theorem abandon_lenR (s : State) : (s.abandon).lenR = s.lenR := rfl
@[simp] theorem abandon_seqR (s : State) : (s.abandon).seqR = s.seqR := rfl
@[simp] theorem abandon_cnt (s : State) : (s.abandon).cnt = s.cnt := rfl
@[simp] theorem abandon_tLast (s : State) : (s.abandon).tLast = s.tLast := rfl
@[simp] theorem abandon_front (s : State) : (s.abandon).front = s.front := rfl
@[simp] theorem abandon_hasFrame (s : State) : (s.abandon).hasFrame = s.hasFrame := rfl
@[simp] theorem abandon_lastSeq (s : State) : (s.abandon).lastSeq = s.lastSeq := rfl
@[simp] theorem abandon_mem (s : State) : (s.abandon).mem = s.mem := rfl
@[simp] theorem abandon_pins (s : State) : (s.abandon).pins = s.pins := rfl
@[simp] theorem abandon_rxQueue (s : State) : (s.abandon).rxQueue = s.rxQueue := rfl
@[simp] theorem abandon_script (s : State) : (s.abandon).script = s.script := rfl
@[simp] theorem abandon_steps (s : State) : (s.abandon).steps = s.steps := rfl
@[simp] theorem abandon_epoch (s : State) : (s.abandon).epoch = s.epoch := rfl
@[simp] theorem abandon_out (s : State) : (s.abandon).out = { s.out with ev := .transportTimeout } := rfl

/-! ### State.release -/

@[simp] theorem release_cfg (s : State) : (s.release).cfg = s.cfg := rfl
@[simp] theorem release_st (s : State) : (s.release).st = .idle := rfl
@[simp] theorem release_hcnt (s : State) : (s.release).hcnt = s.hcnt := rfl
@[simp] theorem release_lenR (s : State) : (s.release).lenR = s.lenR := rfl
@[simp] theorem release_seqR (s : State) : (s.release).seqR = s.seqR := rfl
@[simp] theorem release_cnt (s : State) : (s.release).cnt = s.cnt := rfl
@[simp] theorem release_tLast (s : State) : (s.release).tLast = s.tLast := rfl
@[simp] theorem release_front (s : State) : (s.release).front = s.front := rfl
@[simp] theorem release_hasFrame (s : State) : (s.release).hasFrame = s.hasFrame := rfl
@[simp] theorem release_lastSeq (s : State) : (s.release).lastSeq = s.lastSeq := rfl
@[simp] theorem release_mem (s : State) : (s.release).mem = s.mem := rfl
@[simp] theorem release_pins (s : State) : (s.release).pins = s.pins := rfl
@[simp] theorem release_rxQueue (s : State) : (s.release).rxQueue = s.rxQueue := rfl
@[simp] theorem release_script (s : State) : (s.release).script = s.script := rfl
@[simp] theorem release_steps (s : State) : (s.release).steps = s.steps := rfl
@[simp] theorem release_epoch (s : State) : (s.release).epoch = s.epoch := rfl
@[simp] theorem release_out (s : State) : (s.release).out = { s.out with ev := .none } := rfl

/-! ### State.wait -/

@[simp] theorem wait_cfg (s : State) : (s.wait).cfg = s.cfg := rfl
@[simp] theorem wait_st (s : State) : (s.wait).st = s.st := rfl
@[simp] theorem wait_hcnt (s : State) : (s.wait).hcnt = s.hcnt := rfl
@[simp] theorem wait_lenR (s : State) : (s.wait).lenR = s.lenR := rfl
@[simp] theorem wait_seqR (s : State) : (s.wait).seqR = s.seqR := rfl
@[simp] theorem wait_cnt (s : State) : (s.wait).cnt = s.cnt := rfl
@[simp] theorem wait_tLast (s : State) : (s.wait).tLast = s.tLast := rfl
@[simp] theorem wait_front (s : State) : (s.wait).front = s.front := rfl
@[simp] theorem wait_hasFrame (s : State) : (s.wait).hasFrame = s.hasFrame := rfl
@[simp] theorem wait_lastSeq (s : State) : (s.wait).lastSeq = s.lastSeq := rfl
@[simp] theorem wait_mem (s : State) : (s.wait).mem = s.mem := rfl
@[simp] theorem wait_pins (s : State) : (s.wait).pins = s.pins := rfl
@[simp] theorem wait_rxQueue (s : State) : (s.wait).rxQueue = s.rxQueue := rfl
@[simp] theorem wait_script (s : State) : (s.wait).script = s.script := rfl
@[simp] theorem wait_steps (s : State) : (s.wait).steps = s.steps := rfl
@[simp] theorem wait_epoch (s : State) : (s.wait).epoch = s.epoch := rfl
@[simp] theorem wait_out (s : State) : (s.wait).out = { s.out with ev := .none } := rfl

/-! ### State.resetRegisters -/

@[simp] theorem resetRegisters_cfg (s : State) : (s.resetRegisters).cfg = s.cfg := rfl
@[simp] theorem resetRegisters_st (s : State) : (s.resetRegisters).st = .idle := rfl
@[simp] theorem resetRegisters_hcnt (s : State) : (s.resetRegisters).hcnt = 0#2 := rfl
@[simp] theorem resetRegisters_lenR (s : State) : (s.resetRegisters).lenR = 0#16 := rfl
@[simp] theorem resetRegisters_seqR (s : State) : (s.resetRegisters).seqR = 0#16 := rfl
@[simp] theorem resetRegisters_cnt (s : State) : (s.resetRegisters).cnt = 0#16 := rfl
@[simp] theorem resetRegisters_tLast (s : State) : (s.resetRegisters).tLast = 0#32 := rfl
@[simp] theorem resetRegisters_front (s : State) : (s.resetRegisters).front = 0#1 := rfl
@[simp] theorem resetRegisters_hasFrame (s : State) : (s.resetRegisters).hasFrame = false := rfl
@[simp] theorem resetRegisters_lastSeq (s : State) : (s.resetRegisters).lastSeq = Config.freeSeq (s.epoch + 1) := rfl
@[simp] theorem resetRegisters_mem (s : State) : (s.resetRegisters).mem = [] := rfl
@[simp] theorem resetRegisters_pins (s : State) : (s.resetRegisters).pins = s.pins := rfl
@[simp] theorem resetRegisters_rxQueue (s : State) : (s.resetRegisters).rxQueue = s.rxQueue := rfl
@[simp] theorem resetRegisters_script (s : State) : (s.resetRegisters).script = s.script := rfl
@[simp] theorem resetRegisters_steps (s : State) : (s.resetRegisters).steps = s.steps := rfl
@[simp] theorem resetRegisters_epoch (s : State) : (s.resetRegisters).epoch = s.epoch + 1 := rfl
@[simp] theorem resetRegisters_out (s : State) : (s.resetRegisters).out = s.out := rfl

/-! ### State.sample -/

@[simp] theorem sample_cfg (s : State) : (s.sample).cfg = s.cfg := rfl
@[simp] theorem sample_st (s : State) : (s.sample).st = s.st := rfl
@[simp] theorem sample_hcnt (s : State) : (s.sample).hcnt = s.hcnt := rfl
@[simp] theorem sample_lenR (s : State) : (s.sample).lenR = s.lenR := rfl
@[simp] theorem sample_seqR (s : State) : (s.sample).seqR = s.seqR := rfl
@[simp] theorem sample_cnt (s : State) : (s.sample).cnt = s.cnt := rfl
@[simp] theorem sample_tLast (s : State) : (s.sample).tLast = s.tLast := rfl
@[simp] theorem sample_front (s : State) : (s.sample).front = s.front := rfl
@[simp] theorem sample_hasFrame (s : State) : (s.sample).hasFrame = s.hasFrame := rfl
@[simp] theorem sample_lastSeq (s : State) : (s.sample).lastSeq = s.lastSeq := rfl
@[simp] theorem sample_mem (s : State) : (s.sample).mem = s.mem := rfl
@[simp] theorem sample_rxQueue (s : State) : (s.sample).rxQueue = s.nextQueue := rfl
@[simp] theorem sample_script (s : State) : (s.sample).script = s.script.tail := rfl
@[simp] theorem sample_steps (s : State) : (s.sample).steps = s.steps + 1 := rfl
@[simp] theorem sample_epoch (s : State) : (s.sample).epoch = s.epoch := rfl
@[simp] theorem sample_out (s : State) : (s.sample).out = s.out := rfl

/-! ### The buffers after the updates that write none -/

@[simp] theorem emit_bufByte (e : Event) (s : State) (k : BitVec 1) (off : Half) :
    State.bufByte (s.emit e) k off = s.bufByte k off := rfl
@[simp] theorem drive_bufByte (d : Option Byte) (s : State) (k : BitVec 1) (off : Half) :
    State.bufByte (s.drive d) k off = s.bufByte k off := rfl
@[simp] theorem goto_bufByte (x : SyncState) (s : State) (k : BitVec 1) (off : Half) :
    State.bufByte (s.goto x) k off = s.bufByte k off := rfl
@[simp] theorem setHcnt_bufByte (x : BitVec 2) (s : State) (k : BitVec 1) (off : Half) :
    State.bufByte (s.setHcnt x) k off = s.bufByte k off := rfl
@[simp] theorem setLenR_bufByte (x : Half) (s : State) (k : BitVec 1) (off : Half) :
    State.bufByte (s.setLenR x) k off = s.bufByte k off := rfl
@[simp] theorem setSeqR_bufByte (x : Half) (s : State) (k : BitVec 1) (off : Half) :
    State.bufByte (s.setSeqR x) k off = s.bufByte k off := rfl
@[simp] theorem setCnt_bufByte (x : Half) (s : State) (k : BitVec 1) (off : Half) :
    State.bufByte (s.setCnt x) k off = s.bufByte k off := rfl
@[simp] theorem consume_bufByte (s : State) (k : BitVec 1) (off : Half) :
    State.bufByte (s.consume) k off = s.bufByte k off := rfl
@[simp] theorem commit_bufByte (s : State) (k : BitVec 1) (off : Half) :
    State.bufByte (s.commit) k off = s.bufByte k off := rfl
@[simp] theorem abandon_bufByte (s : State) (k : BitVec 1) (off : Half) :
    State.bufByte (s.abandon) k off = s.bufByte k off := rfl
@[simp] theorem release_bufByte (s : State) (k : BitVec 1) (off : Half) :
    State.bufByte (s.release) k off = s.bufByte k off := rfl
@[simp] theorem wait_bufByte (s : State) (k : BitVec 1) (off : Half) :
    State.bufByte (s.wait) k off = s.bufByte k off := rfl
@[simp] theorem sample_bufByte (s : State) (k : BitVec 1) (off : Half) :
    State.bufByte (s.sample) k off = s.bufByte k off := rfl

/-! ### captureMeta, captureLast -/

@[simp] theorem captureMeta_cfg (b : Byte) (s : State) : (captureMeta b s).cfg = s.cfg := by
  unfold captureMeta; split <;> rfl
@[simp] theorem captureMeta_st (b : Byte) (s : State) : (captureMeta b s).st = s.st := by
  unfold captureMeta; split <;> rfl
@[simp] theorem captureMeta_hcnt (b : Byte) (s : State) : (captureMeta b s).hcnt = s.hcnt := by
  unfold captureMeta; split <;> rfl
@[simp] theorem captureMeta_cnt (b : Byte) (s : State) : (captureMeta b s).cnt = s.cnt := by
  unfold captureMeta; split <;> rfl
@[simp] theorem captureMeta_tLast (b : Byte) (s : State) : (captureMeta b s).tLast = s.tLast := by
  unfold captureMeta; split <;> rfl
@[simp] theorem captureMeta_front (b : Byte) (s : State) : (captureMeta b s).front = s.front := by
  unfold captureMeta; split <;> rfl
@[simp] theorem captureMeta_hasFrame (b : Byte) (s : State) : (captureMeta b s).hasFrame = s.hasFrame := by
  unfold captureMeta; split <;> rfl
@[simp] theorem captureMeta_lastSeq (b : Byte) (s : State) : (captureMeta b s).lastSeq = s.lastSeq := by
  unfold captureMeta; split <;> rfl
@[simp] theorem captureMeta_mem (b : Byte) (s : State) : (captureMeta b s).mem = s.mem := by
  unfold captureMeta; split <;> rfl
@[simp] theorem captureMeta_pins (b : Byte) (s : State) : (captureMeta b s).pins = s.pins := by
  unfold captureMeta; split <;> rfl
@[simp] theorem captureMeta_rxQueue (b : Byte) (s : State) : (captureMeta b s).rxQueue = s.rxQueue := by
  unfold captureMeta; split <;> rfl
@[simp] theorem captureMeta_script (b : Byte) (s : State) : (captureMeta b s).script = s.script := by
  unfold captureMeta; split <;> rfl
@[simp] theorem captureMeta_steps (b : Byte) (s : State) : (captureMeta b s).steps = s.steps := by
  unfold captureMeta; split <;> rfl
@[simp] theorem captureMeta_epoch (b : Byte) (s : State) : (captureMeta b s).epoch = s.epoch := by
  unfold captureMeta; split <;> rfl
@[simp] theorem captureMeta_out (b : Byte) (s : State) : (captureMeta b s).out = s.out := by
  unfold captureMeta; split <;> rfl
@[simp] theorem captureMeta_bufByte (b : Byte) (s : State) (k : BitVec 1) (off : Half) :
    (captureMeta b s).bufByte k off = s.bufByte k off := by
  unfold captureMeta; split <;> rfl

@[simp] theorem captureLast_cfg (b : Byte) (s : State) : (captureLast b s).cfg = s.cfg := rfl
@[simp] theorem captureLast_st (b : Byte) (s : State) : (captureLast b s).st = s.st := rfl
@[simp] theorem captureLast_hcnt (b : Byte) (s : State) : (captureLast b s).hcnt = s.hcnt := rfl
@[simp] theorem captureLast_cnt (b : Byte) (s : State) : (captureLast b s).cnt = s.cnt := rfl
@[simp] theorem captureLast_tLast (b : Byte) (s : State) : (captureLast b s).tLast = s.pins.nowMs := rfl
@[simp] theorem captureLast_front (b : Byte) (s : State) : (captureLast b s).front = s.front := rfl
@[simp] theorem captureLast_hasFrame (b : Byte) (s : State) : (captureLast b s).hasFrame = s.hasFrame := rfl
@[simp] theorem captureLast_lastSeq (b : Byte) (s : State) : (captureLast b s).lastSeq = s.lastSeq := rfl
@[simp] theorem captureLast_mem (b : Byte) (s : State) : (captureLast b s).mem = s.mem := rfl
@[simp] theorem captureLast_pins (b : Byte) (s : State) : (captureLast b s).pins = s.pins := rfl
@[simp] theorem captureLast_rxQueue (b : Byte) (s : State) : (captureLast b s).rxQueue = s.rxQueue.tail := rfl
@[simp] theorem captureLast_script (b : Byte) (s : State) : (captureLast b s).script = s.script := rfl
@[simp] theorem captureLast_steps (b : Byte) (s : State) : (captureLast b s).steps = s.steps := rfl
@[simp] theorem captureLast_epoch (b : Byte) (s : State) : (captureLast b s).epoch = s.epoch := rfl
@[simp] theorem captureLast_out (b : Byte) (s : State) : (captureLast b s).out = s.out := rfl
@[simp] theorem captureLast_lenR (b : Byte) (s : State) : (captureLast b s).lenR = s.lenR := rfl
@[simp] theorem captureLast_seqR (b : Byte) (s : State) : (captureLast b s).seqR = setHigh s.seqR b := rfl
@[simp] theorem captureLast_bufByte (b : Byte) (s : State) (k : BitVec 1) (off : Half) :
    (captureLast b s).bufByte k off = s.bufByte k off := rfl

/-! ### The sampled inputs -/

@[simp] theorem sample_pins_rst (s : State) : s.sample.pins.rst = s.nextStimulus.rst := rfl
@[simp] theorem sample_pins_tick (s : State) : s.sample.pins.tick = s.nextStimulus.tick := rfl
@[simp] theorem sample_pins_rx (s : State) : s.sample.pins.rx = s.nextQueue.head? := rfl
@[simp] theorem sample_pins_nowMs (s : State) : s.sample.pins.nowMs = s.nextStimulus.nowMs := rfl
@[simp] theorem sample_pins_rdAddr (s : State) : s.sample.pins.rdAddr = s.nextStimulus.rdAddr := rfl

end Sys2Proof.Machine
end

