-- ==== Sys2Proof/Laws/Memory.lean ====
section
/-! SUPPORT. The buffers: read after write, the canonical form, addresses, and what one byte reads as after each operation. -/

namespace Sys2Proof.Machine

/-! ### The memory as plain data -/

@[simp] theorem Memory.read_nil (x : Nat) : Memory.read [] x = none := rfl

theorem Memory.read_write_same (m : List Host.Cell) (x : Nat) (v : Byte) :
    Memory.read (Memory.write m x v) x = some v := by
  induction m with
  | nil => simp [Memory.write, Memory.read]
  | cons c m ih =>
    obtain ⟨a, b⟩ := c
    simp only [Memory.write]
    split
    · simp [Memory.read]
    · split
      · simp [Memory.read]
      · have hne : a ≠ x := by omega
        simp [Memory.read, hne, ih]

theorem Memory.read_write_other (m : List Host.Cell) (x y : Nat) (v : Byte) (hxy : y ≠ x) :
    Memory.read (Memory.write m x v) y = Memory.read m y := by
  have hyx : x ≠ y := fun h => hxy h.symm
  induction m with
  | nil => simp [Memory.write, Memory.read, hyx]
  | cons c m ih =>
    obtain ⟨a, b⟩ := c
    simp only [Memory.write]
    split
    · simp [Memory.read, hyx]
    · split
      · have ha : a ≠ y := by omega
        simp [Memory.read, hyx, ha]
      · simp [Memory.read, ih]

theorem Memory.mem_write (m : List Host.Cell) (x : Nat) (v : Byte) (c : Host.Cell)
    (h : c ∈ Memory.write m x v) : c = (x, v) ∨ c ∈ m := by
  induction m with
  | nil => simpa [Memory.write] using h
  | cons d m ih =>
    obtain ⟨a, b⟩ := d
    simp only [Memory.write] at h
    split at h
    · simpa using h
    · split at h
      · rcases List.mem_cons.mp h with h | h
        · exact .inl h
        · exact .inr (List.mem_cons_of_mem _ h)
      · rcases List.mem_cons.mp h with h | h
        · exact .inr (h ▸ List.mem_cons_self)
        · exact (ih h).imp id (List.mem_cons_of_mem _)

/-- Every write keeps the canonical form. -/
theorem Memory.write_wf (m : List Host.Cell) (x : Nat) (v : Byte) (h : Memory.wf m = true) :
    Memory.wf (Memory.write m x v) = true := by
  induction m with
  | nil => rfl
  | cons c m ih =>
    obtain ⟨a, b⟩ := c
    simp only [Memory.wf, Bool.and_eq_true, List.all_eq_true, decide_eq_true_eq] at h
    obtain ⟨hall, hm⟩ := h
    simp only [Memory.write]
    split
    · rename_i hx
      simp only [Memory.wf, Bool.and_eq_true, List.all_eq_true, decide_eq_true_eq]
      refine ⟨fun d hd => ?_, hall, hm⟩
      rcases List.mem_cons.mp hd with rfl | hd
      · exact hx
      · exact Nat.lt_trans hx (hall d hd)
    · split
      · rename_i hx
        subst hx
        simp only [Memory.wf, Bool.and_eq_true, List.all_eq_true, decide_eq_true_eq]
        exact ⟨hall, hm⟩
      · rename_i hx hne
        simp only [Memory.wf, Bool.and_eq_true, List.all_eq_true, decide_eq_true_eq]
        refine ⟨fun d hd => ?_, ih hm⟩
        rcases Memory.mem_write m x v d hd with rfl | hd
        · show a < x
          omega
        · exact hall d hd

/-- Two canonical memories that read the same are the same data. -/
theorem Memory.wf_ext : ∀ (m n : List Host.Cell), Memory.wf m = true → Memory.wf n = true →
    (∀ x, Memory.read m x = Memory.read n x) → m = n := by
  have below : ∀ (m : List Host.Cell) (x : Nat), (∀ d ∈ m, x < d.1) → Memory.read m x = none := by
    intro m x h
    induction m with
    | nil => rfl
    | cons c m ih =>
      have hc : c.1 ≠ x := Nat.ne_of_gt (h c List.mem_cons_self)
      simp only [Memory.read, hc, if_false]
      exact ih fun d hd => h d (List.mem_cons_of_mem _ hd)
  intro m
  induction m with
  | nil =>
    intro n _ _ h
    cases n with
    | nil => rfl
    | cons d n => simpa [Memory.read] using h d.1
  | cons c m ih =>
    intro n hm hn h
    cases n with
    | nil => simpa [Memory.read] using (h c.1).symm
    | cons d n =>
      simp only [Memory.wf, Bool.and_eq_true, List.all_eq_true, decide_eq_true_eq] at hm hn
      have hcd : c.1 = d.1 := by
        rcases Nat.lt_trichotomy c.1 d.1 with hlt | heq | hgt
        · have h1 := below (d :: n) c.1 (by
            intro e he
            rcases List.mem_cons.mp he with rfl | he
            · exact hlt
            · exact Nat.lt_trans hlt (hn.1 e he))
          have h2 := h c.1
          rw [h1] at h2
          simp [Memory.read] at h2
        · exact heq
        · have h1 := below (c :: m) d.1 (by
            intro e he
            rcases List.mem_cons.mp he with rfl | he
            · exact hgt
            · exact Nat.lt_trans hgt (hm.1 e he))
          have h2 := h d.1
          rw [h1] at h2
          simp [Memory.read] at h2
      have hb : c.2 = d.2 := by
        have h2 := h c.1
        simpa [Memory.read, hcd] using h2
      have hrest : m = n := by
        refine ih n hm.2 hn.2 fun x => ?_
        by_cases hx : c.1 = x
        · rw [below m x (fun e he => hx ▸ hm.1 e he), below n x (fun e he => hx ▸ hcd ▸ hn.1 e he)]
        · have h2 := h x
          have hx' : d.1 ≠ x := hcd ▸ hx
          simpa [Memory.read, hx, hx'] using h2
      rw [hrest, Prod.ext hcd hb]

/-! ### Addresses (R41) -/

theorem bufAddr_eq (k : BitVec 1) (off : Half) : bufAddr k off = k.toNat * 65536 + off.toNat := by
  have h := off.isLt
  simp only [bufAddr, BitVec.toNat_append]
  rw [Nat.shiftLeft_eq, Nat.mul_comm, ← Nat.two_pow_add_eq_or_of_lt h]

theorem bufAddr_inj (k k' : BitVec 1) (off off' : Half) (h : bufAddr k off = bufAddr k' off') :
    k = k' ∧ off = off' := by
  rw [bufAddr_eq, bufAddr_eq] at h
  have h1 := off.isLt
  have h2 := off'.isLt
  have hk : k.toNat = k'.toNat := by omega
  have ho : off.toNat = off'.toNat := by omega
  exact ⟨BitVec.eq_of_toNat_eq hk, BitVec.eq_of_toNat_eq ho⟩

theorem bufAddr_ne (k k' : BitVec 1) (off off' : Half) (h : (k', off') ≠ (k, off)) :
    bufAddr k' off' ≠ bufAddr k off := by
  intro he
  obtain ⟨rfl, rfl⟩ := bufAddr_inj _ _ _ _ he
  exact h rfl

/-- R29: the back buffer is not the front buffer. -/
theorem back_ne_front (s : State) : s.back ≠ s.front := by
  have h : ∀ f : BitVec 1, 1#1 - f ≠ f := by decide
  exact h s.front

theorem back_back (f : BitVec 1) : 1#1 - (1#1 - f) = f := by
  revert f; decide

theorem eq_back_of_ne_front (f k : BitVec 1) (h : k ≠ f) : k = 1#1 - f := by
  revert f k; decide

/-! ### One byte after an operation -/

/-- A byte reads by the memory and the draws alone. -/
theorem bufByte_congr (s t : State) (hm : t.mem = s.mem) (he : t.epoch = s.epoch) (k : BitVec 1) (off : Half) :
    t.bufByte k off = s.bufByte k off := by
  simp only [State.bufByte, hm, he]

theorem bufByte_of_write_same (s t : State) (k : BitVec 1) (off : Half) (v : Byte)
    (hm : t.mem = Memory.write s.mem (bufAddr k off) v) : t.bufByte k off = v := by
  simp only [State.bufByte, hm, Memory.read_write_same]

theorem bufByte_of_write_other (s t : State) (k : BitVec 1) (off : Half) (v : Byte)
    (hm : t.mem = Memory.write s.mem (bufAddr k off) v) (he : t.epoch = s.epoch)
    (k' : BitVec 1) (off' : Half) (h : (k', off') ≠ (k, off)) : t.bufByte k' off' = s.bufByte k' off' := by
  simp only [State.bufByte, hm, he, Memory.read_write_other _ _ _ _ (bufAddr_ne _ _ _ _ h)]

@[simp] theorem store_bufByte_same (s : State) (k : BitVec 1) (off : Half) (v : Byte) :
    (s.store k off v).bufByte k off = v :=
  bufByte_of_write_same s (s.store k off v) k off v rfl

theorem store_bufByte_other (s : State) (k k' : BitVec 1) (off off' : Half) (v : Byte) (h : (k', off') ≠ (k, off)) :
    (s.store k off v).bufByte k' off' = s.bufByte k' off' :=
  bufByte_of_write_other s (s.store k off v) k off v rfl rfl k' off' h

/-- A store to the back buffer shows nowhere in the front buffer (R38). -/
@[simp] theorem store_back_bufByte_front (s : State) (off off' : Half) (v : Byte) :
    (s.store s.back off v).bufByte s.front off' = s.bufByte s.front off' :=
  store_bufByte_other s _ _ _ _ v fun h => back_ne_front s (Prod.mk.inj h).1.symm

@[simp] theorem resetRegisters_bufByte (s : State) (k : BitVec 1) (off : Half) :
    s.resetRegisters.bufByte k off = Config.freeByte (s.epoch + 1) (bufAddr k off) := rfl

end Sys2Proof.Machine
end

