-- ==== Sys2Proof/Laws/Step.lean ====
section
/-! SUPPORT. What a step can do, said once: the outcome plumbing, the fields of the selector, which row a sampled state selects, and the inversion of a step into its rows. -/

namespace Sys2Proof.Machine

/-! ### Outcomes -/

@[simp] theorem onNext_next (s : State) (f : State → Host.Outcome State Fault Refusal) :
    onNext (.next s) f = f s := rfl
@[simp] theorem onNext_fault (r : Fault) (f : State → Host.Outcome State Fault Refusal) :
    onNext (.fault r) f = .fault r := rfl
@[simp] theorem onNext_refused (r : Refusal) (f : State → Host.Outcome State Fault Refusal) :
    onNext (.refused r) f = .refused r := rfl

theorem onNext_eq_next {o : Host.Outcome State Fault Refusal}
    {f : State → Host.Outcome State Fault Refusal} {t : State} :
    onNext o f = .next t ↔ ∃ s, o = .next s ∧ f s = .next t := by
  cases o <;> simp

theorem bufWrite_eq_next {k : BitVec 1} {off : Half} {v : Byte} {s t : State} :
    bufWrite k off v s = .next t ↔
      off.toNat < s.cfg.frameLen ∧ t = s.store k off v := by
  unfold bufWrite
  split <;> simp_all [eq_comm]

theorem bufWrite_in_range {k : BitVec 1} {off : Half} {v : Byte} {s : State} (h : off.toNat < s.cfg.frameLen) :
    bufWrite k off v s = .next (s.store k off v) := by
  simp [bufWrite, h]

theorem readPort_in_range {s : State} {addr : Half} (h : addr.toNat < s.cfg.frameLen) :
    readPort s addr = some (s.bufByte s.front addr) := by
  simp [readPort, h]

theorem readPort_out_of_range {s : State} {addr : Half} (h : s.cfg.frameLen ≤ addr.toNat) :
    readPort s addr = none := by
  simp [readPort, Nat.not_lt.mpr h]

theorem portData_frontRead (s : State) (addr : Half) :
    portData (exec (.frontRead addr) s) = readPort s addr := by
  simp only [exec, execFrontRead]
  cases readPort s addr <;> rfl

/-! ### The selector (R58) -/

theorem packSel_fields : ∀ (rst tick tmo rxv : Bool) (c : BitVec 3),
    (packSel rst tick tmo rxv c).getLsbD 6 = rst ∧ (packSel rst tick tmo rxv c).getLsbD 5 = tick ∧
    (packSel rst tick tmo rxv c).getLsbD 4 = tmo ∧ (packSel rst tick tmo rxv c).getLsbD 3 = rxv ∧
    (packSel rst tick tmo rxv c).extractLsb' 0 3 = c := by
  decide

@[simp] theorem selector_rst (s : State) : s.selector.rst = s.pins.rst := (packSel_fields ..).1
@[simp] theorem selector_tick (s : State) : s.selector.tick = s.pins.tick := (packSel_fields ..).2.1
@[simp] theorem selector_tmo (s : State) : s.selector.tmo = s.tmo := (packSel_fields ..).2.2.1
@[simp] theorem selector_rxv (s : State) : s.selector.rxv = s.pins.rx.isSome := (packSel_fields ..).2.2.2.1
@[simp] theorem selector_stField (s : State) : s.selector.stField = s.st.code := (packSel_fields ..).2.2.2.2
@[simp] theorem selector_rxData (s : State) : s.selector.rxData = s.pins.rx.getD 0#8 := rfl
@[simp] theorem selector_hcnt (s : State) : s.selector.hcnt = s.hcnt := rfl
@[simp] theorem selector_lenR (s : State) : s.selector.lenR = s.lenR := rfl
@[simp] theorem selector_cnt (s : State) : s.selector.cnt = s.cnt := rfl

/-! ### Which row a sampled state selects (R61) -/

theorem fetch_reset {s : State} (h : s.pins.rst = true) : s.fetch = .reset := by
  simp [State.fetch, decodeSel, h]

theorem fetch_idle_byte {s : State} {b : Byte} (hr : s.pins.rst = false) (hs : s.st = .idle)
    (hx : s.pins.rx = some b) :
    s.fetch = if b = s.cfg.marker0 then .idleM0 b else .idleSkip b := by
  simp [State.fetch, decodeSel, hr, hs, hx, SyncState.code]

theorem fetch_idle_none {s : State} (hr : s.pins.rst = false) (hs : s.st = .idle) (hx : s.pins.rx = none) :
    s.fetch = .idleWait := by
  simp [State.fetch, decodeSel, hr, hs, hx, SyncState.code]

theorem fetch_gotM0_byte {s : State} {b : Byte} (hr : s.pins.rst = false) (hs : s.st = .gotM0)
    (hx : s.pins.rx = some b) :
    s.fetch = if b = s.cfg.marker1 then .gotM1 b else .gotFail b := by
  simp [State.fetch, decodeSel, hr, hs, hx, SyncState.code]

theorem fetch_gotM0_none {s : State} (hr : s.pins.rst = false) (hs : s.st = .gotM0) (hx : s.pins.rx = none) :
    s.fetch = .gotWait := by
  simp [State.fetch, decodeSel, hr, hs, hx, SyncState.code]

theorem fetch_hdr_byte {s : State} {b : Byte} (hr : s.pins.rst = false) (hs : s.st = .hdr)
    (hx : s.pins.rx = some b) (hc : s.hcnt ≠ 3#2) : s.fetch = .hdrByte b := by
  simp [State.fetch, decodeSel, hr, hs, hx, hc, SyncState.code]

theorem fetch_hdr_last {s : State} {b : Byte} (hr : s.pins.rst = false) (hs : s.st = .hdr)
    (hx : s.pins.rx = some b) (hc : s.hcnt = 3#2) :
    s.fetch = match classify s.cfg s.lenR with
      | .accept => .hdrAccept b
      | .mismatch => .hdrMismatch b
      | .tooLarge => .hdrTooLarge b := by
  cases hl : classify s.cfg s.lenR <;> simp [State.fetch, decodeSel, hr, hs, hx, hc, hl, SyncState.code]

theorem fetch_hdr_none {s : State} (hr : s.pins.rst = false) (hs : s.st = .hdr) (hx : s.pins.rx = none) :
    s.fetch = if s.tmo then .hdrTimeout else .hdrWait := by
  simp [State.fetch, decodeSel, hr, hs, hx, SyncState.code]

theorem fetch_payload_byte {s : State} {b : Byte} (hr : s.pins.rst = false) (hs : s.st = .payload)
    (hx : s.pins.rx = some b) :
    s.fetch = if s.cnt.toNat = s.cfg.frameLen - 1 then .payCommit b else .payByte b := by
  simp [State.fetch, decodeSel, hr, hs, hx, SyncState.code]

theorem fetch_payload_none {s : State} (hr : s.pins.rst = false) (hs : s.st = .payload) (hx : s.pins.rx = none) :
    s.fetch = if s.tmo then .payTimeout else .payWait := by
  simp [State.fetch, decodeSel, hr, hs, hx, SyncState.code]

theorem fetch_discard_byte {s : State} {b : Byte} (hr : s.pins.rst = false) (hs : s.st = .discard)
    (hx : s.pins.rx = some b) :
    s.fetch = if s.cnt = 1#16 then .discDone b else .discByte b := by
  simp [State.fetch, decodeSel, hr, hs, hx, SyncState.code]

theorem fetch_discard_none {s : State} (hr : s.pins.rst = false) (hs : s.st = .discard) (hx : s.pins.rx = none) :
    s.fetch = if s.tmo then .discTimeout else .discWait := by
  simp [State.fetch, decodeSel, hr, hs, hx, SyncState.code]

theorem fetch_render {s : State} (hr : s.pins.rst = false) (hs : s.st = .render) :
    s.fetch = if s.pins.tick then .renderRelease else .renderHold := by
  simp [State.fetch, decodeSel, hr, hs, SyncState.code]

theorem fetch_hold {s : State} (hr : s.pins.rst = false) (hs : s.st = .hold) :
    s.fetch = if s.pins.tick then .holdRelease else .holdHold := by
  simp [State.fetch, decodeSel, hr, hs, SyncState.code]

theorem fetch_reserved {s : State} (hr : s.pins.rst = false) (hs : s.st = .reserved) :
    s.fetch = .reservedState := by
  simp [State.fetch, decodeSel, hr, hs, SyncState.code]

/-! ### The rows of a step -/

/-- What the selected row makes of a sampled state `c`, row by row, each with what selects it. RESERVED_STATE is missing: it has no next state. -/
inductive RowStep (c : State) : State → Prop where
  | reset (hr : c.pins.rst = true) : RowStep c (c.resetRegisters.emit .none)
  | idleM0 (b : Byte) (hr : c.pins.rst = false) (hs : c.st = .idle) (hx : c.pins.rx = some b)
      (hb : b = c.cfg.marker0) : RowStep c ((c.consume.goto .gotM0).emit .none)
  | idleSkip (b : Byte) (hr : c.pins.rst = false) (hs : c.st = .idle) (hx : c.pins.rx = some b)
      (hb : b ≠ c.cfg.marker0) : RowStep c (c.consume.emit .none)
  | gotM1 (b : Byte) (hr : c.pins.rst = false) (hs : c.st = .gotM0) (hx : c.pins.rx = some b)
      (hb : b = c.cfg.marker1) : RowStep c (((c.consume.setHcnt 0#2).goto .hdr).emit .none)
  | gotFail (b : Byte) (hr : c.pins.rst = false) (hs : c.st = .gotM0) (hx : c.pins.rx = some b)
      (hb : b ≠ c.cfg.marker1) : RowStep c ((c.consume.goto .idle).emit .none)
  | hdrByte (b : Byte) (hr : c.pins.rst = false) (hs : c.st = .hdr) (hx : c.pins.rx = some b)
      (hc : c.hcnt ≠ 3#2) : RowStep c (((captureMeta b c.consume).setHcnt (c.hcnt + 1#2)).emit .none)
  | hdrAccept (b : Byte) (hr : c.pins.rst = false) (hs : c.st = .hdr) (hx : c.pins.rx = some b)
      (hc : c.hcnt = 3#2) (hl : classify c.cfg c.lenR = .accept) :
      RowStep c ((((captureLast b c).setCnt 0#16).goto .payload).emit .none)
  | hdrMismatchZero (b : Byte) (hr : c.pins.rst = false) (hs : c.st = .hdr) (hx : c.pins.rx = some b)
      (hc : c.hcnt = 3#2) (hl : classify c.cfg c.lenR = .mismatch) (hz : c.lenR = 0#16) :
      RowStep c (((captureLast b c).goto .idle).emit .lengthMismatch)
  | hdrMismatch (b : Byte) (hr : c.pins.rst = false) (hs : c.st = .hdr) (hx : c.pins.rx = some b)
      (hc : c.hcnt = 3#2) (hl : classify c.cfg c.lenR = .mismatch) (hz : c.lenR ≠ 0#16) :
      RowStep c ((((captureLast b c).setCnt c.lenR).goto .discard).emit .lengthMismatch)
  | hdrTooLarge (b : Byte) (hr : c.pins.rst = false) (hs : c.st = .hdr) (hx : c.pins.rx = some b)
      (hc : c.hcnt = 3#2) (hl : classify c.cfg c.lenR = .tooLarge) :
      RowStep c (((captureLast b c).goto .hold).emit .lengthTooLarge)
  | timeout (hr : c.pins.rst = false) (hs : c.st.timed = true) (hx : c.pins.rx = none) (ht : c.tmo = true) :
      RowStep c c.abandon
  | waitTimed (hr : c.pins.rst = false) (hs : c.st.timed = true) (hx : c.pins.rx = none) (ht : c.tmo = false) :
      RowStep c c.wait
  | waitScan (hr : c.pins.rst = false) (hs : c.st = .idle ∨ c.st = .gotM0) (hx : c.pins.rx = none) :
      RowStep c c.wait
  | payByte (b : Byte) (hr : c.pins.rst = false) (hs : c.st = .payload) (hx : c.pins.rx = some b)
      (hc : c.cnt.toNat < c.cfg.frameLen - 1) :
      RowStep c (((c.store c.back c.cnt b).consume.setCnt (c.cnt + 1#16)).emit .none)
  | payCommit (b : Byte) (hr : c.pins.rst = false) (hs : c.st = .payload) (hx : c.pins.rx = some b)
      (hf : 1 ≤ c.cfg.frameLen) (hc : c.cnt.toNat = c.cfg.frameLen - 1) :
      RowStep c ((c.store c.back c.cnt b).consume.commit.goto .render)
  | discByte (b : Byte) (hr : c.pins.rst = false) (hs : c.st = .discard) (hx : c.pins.rx = some b)
      (hc : c.cnt ≠ 1#16) : RowStep c ((c.consume.setCnt (c.cnt - 1#16)).emit .none)
  | discDone (b : Byte) (hr : c.pins.rst = false) (hs : c.st = .discard) (hx : c.pins.rx = some b)
      (hc : c.cnt = 1#16) : RowStep c ((c.consume.goto .idle).emit .none)
  | release (hr : c.pins.rst = false) (hs : c.st = .render ∨ c.st = .hold) (ht : c.pins.tick = true) :
      RowStep c c.release
  | hold (hr : c.pins.rst = false) (hs : c.st = .render ∨ c.st = .hold) (ht : c.pins.tick = false) :
      RowStep c c.wait

/-- The selected row's next state is one of the rows'. -/
theorem rowStep_of_exec {c u : State} (h : exec c.fetch c = .next u) : RowStep c u := by
  by_cases hr : c.pins.rst = true
  · rw [fetch_reset hr] at h
    cases h
    exact .reset hr
  have hr : c.pins.rst = false := by simpa using hr
  cases hs : c.st with
  | idle =>
    cases hx : c.pins.rx with
    | none => rw [fetch_idle_none hr hs hx] at h; cases h; exact .waitScan hr (.inl hs) hx
    | some b =>
      rw [fetch_idle_byte hr hs hx] at h
      split at h
      · rename_i hb; cases h; exact .idleM0 b hr hs hx hb
      · rename_i hb; cases h; exact .idleSkip b hr hs hx hb
  | gotM0 =>
    cases hx : c.pins.rx with
    | none => rw [fetch_gotM0_none hr hs hx] at h; cases h; exact .waitScan hr (.inr hs) hx
    | some b =>
      rw [fetch_gotM0_byte hr hs hx] at h
      split at h
      · rename_i hb; cases h; exact .gotM1 b hr hs hx hb
      · rename_i hb; cases h; exact .gotFail b hr hs hx hb
  | hdr =>
    cases hx : c.pins.rx with
    | none =>
      rw [fetch_hdr_none hr hs hx] at h
      split at h
      · rename_i ht; cases h; exact .timeout hr (by simp [hs, SyncState.timed]) hx ht
      · rename_i ht; cases h; exact .waitTimed hr (by simp [hs, SyncState.timed]) hx (by simpa using ht)
    | some b =>
      by_cases hc : c.hcnt = 3#2
      · rw [fetch_hdr_last hr hs hx hc] at h
        cases hl : classify c.cfg c.lenR with
        | accept => rw [hl] at h; cases h; exact .hdrAccept b hr hs hx hc hl
        | mismatch =>
          rw [hl] at h
          simp only [exec, execHdrMismatch] at h
          split at h
          · rename_i hz; cases h; exact .hdrMismatchZero b hr hs hx hc hl hz
          · rename_i hz; cases h; exact .hdrMismatch b hr hs hx hc hl hz
        | tooLarge => rw [hl] at h; cases h; exact .hdrTooLarge b hr hs hx hc hl
      · rw [fetch_hdr_byte hr hs hx hc] at h
        cases h
        exact .hdrByte b hr hs hx hc
  | payload =>
    cases hx : c.pins.rx with
    | none =>
      rw [fetch_payload_none hr hs hx] at h
      split at h
      · rename_i ht; cases h; exact .timeout hr (by simp [hs, SyncState.timed]) hx ht
      · rename_i ht; cases h; exact .waitTimed hr (by simp [hs, SyncState.timed]) hx (by simpa using ht)
    | some b =>
      rw [fetch_payload_byte hr hs hx] at h
      split at h
      · rename_i hc
        simp only [exec, execPayCommit, onNext_eq_next, bufWrite_eq_next] at h
        obtain ⟨u', ⟨hlt, rfl⟩, h⟩ := h
        cases h
        exact .payCommit b hr hs hx (by omega) hc
      · rename_i hc
        simp only [exec, execPayByte, onNext_eq_next, bufWrite_eq_next] at h
        obtain ⟨u', ⟨hlt, rfl⟩, h⟩ := h
        cases h
        exact .payByte b hr hs hx (by omega)
  | discard =>
    cases hx : c.pins.rx with
    | none =>
      rw [fetch_discard_none hr hs hx] at h
      split at h
      · rename_i ht; cases h; exact .timeout hr (by simp [hs, SyncState.timed]) hx ht
      · rename_i ht; cases h; exact .waitTimed hr (by simp [hs, SyncState.timed]) hx (by simpa using ht)
    | some b =>
      rw [fetch_discard_byte hr hs hx] at h
      split at h
      · rename_i hc; cases h; exact .discDone b hr hs hx hc
      · rename_i hc; cases h; exact .discByte b hr hs hx hc
  | render =>
    rw [fetch_render hr hs] at h
    split at h
    · rename_i ht; cases h; exact .release hr (.inl hs) ht
    · rename_i ht; cases h; exact .hold hr (.inl hs) (by simpa using ht)
  | hold =>
    rw [fetch_hold hr hs] at h
    split at h
    · rename_i ht; cases h; exact .release hr (.inr hs) ht
    · rename_i ht; cases h; exact .hold hr (.inr hs) (by simpa using ht)
  | reserved => rw [fetch_reserved hr hs] at h; cases h

/-- When the selected row has no next state: the reserved state, and a payload byte at an offset outside the buffers. No selected row is refused. -/
theorem exec_fetch_cases (c : State) :
    (∃ u, exec c.fetch c = .next u) ∨
    (c.pins.rst = false ∧ c.st = .reserved ∧ exec c.fetch c = .fault .reservedState) ∨
    (c.pins.rst = false ∧ c.st = .payload ∧ c.cfg.frameLen ≤ c.cnt.toNat ∧
      exec c.fetch c = .fault .noSuchBufferByte) := by
  by_cases hr : c.pins.rst = true
  · exact .inl ⟨_, by rw [fetch_reset hr]; rfl⟩
  have hr : c.pins.rst = false := by simpa using hr
  cases hs : c.st with
  | idle =>
    cases hx : c.pins.rx with
    | none => exact .inl ⟨_, by rw [fetch_idle_none hr hs hx]; rfl⟩
    | some b => rw [fetch_idle_byte hr hs hx]; split <;> exact .inl ⟨_, rfl⟩
  | gotM0 =>
    cases hx : c.pins.rx with
    | none => exact .inl ⟨_, by rw [fetch_gotM0_none hr hs hx]; rfl⟩
    | some b => rw [fetch_gotM0_byte hr hs hx]; split <;> exact .inl ⟨_, rfl⟩
  | hdr =>
    cases hx : c.pins.rx with
    | none => rw [fetch_hdr_none hr hs hx]; split <;> exact .inl ⟨_, rfl⟩
    | some b =>
      by_cases hc : c.hcnt = 3#2
      · rw [fetch_hdr_last hr hs hx hc]; split <;> exact .inl ⟨_, rfl⟩
      · exact .inl ⟨_, by rw [fetch_hdr_byte hr hs hx hc]; rfl⟩
  | payload =>
    cases hx : c.pins.rx with
    | none => rw [fetch_payload_none hr hs hx]; split <;> exact .inl ⟨_, rfl⟩
    | some b =>
      rw [fetch_payload_byte hr hs hx]
      by_cases hlt : c.cnt.toNat < c.cfg.frameLen
      · by_cases hc : c.cnt.toNat = c.cfg.frameLen - 1
        · rw [if_pos hc]
          exact .inl ⟨_, by simp only [exec, execPayCommit, bufWrite_in_range hlt, onNext_next]; rfl⟩
        · rw [if_neg hc]
          exact .inl ⟨_, by simp only [exec, execPayByte, bufWrite_in_range hlt, onNext_next]; rfl⟩
      · have hle := Nat.not_lt.mp hlt
        split <;>
          exact .inr (.inr ⟨hr, rfl, hle, by simp [exec, execPayCommit, execPayByte, bufWrite, hlt]⟩)
  | discard =>
    cases hx : c.pins.rx with
    | none => rw [fetch_discard_none hr hs hx]; split <;> exact .inl ⟨_, rfl⟩
    | some b => rw [fetch_discard_byte hr hs hx]; split <;> exact .inl ⟨_, rfl⟩
  | render => rw [fetch_render hr hs]; split <;> exact .inl ⟨_, rfl⟩
  | hold => rw [fetch_hold hr hs]; split <;> exact .inl ⟨_, rfl⟩
  | reserved => exact .inr (.inl ⟨hr, rfl, by rw [fetch_reserved hr hs]; rfl⟩)

/-! ### The step -/

/-- A step is the selected row with the read port's answer beside it. -/
theorem step_of_row {s u : State} (hc : s.cfg.ok = true) (h : exec s.sample.fetch s.sample = .next u) :
    step s = .next (u.drive (readPort s.sample s.sample.pins.rdAddr)) := by
  simp only [step, State.instantiated, hc, if_true, withPort, h, onNext_next, portData_frontRead]

/-- A step that has a next state is the selected row's next state with the read port's answer. -/
theorem step_exec {s t : State} (h : step s = .next t) :
    s.cfg.ok = true ∧ ∃ u, exec s.sample.fetch s.sample = .next u ∧
      t = u.drive (readPort s.sample s.sample.pins.rdAddr) := by
  by_cases hc : s.cfg.ok = true
  · simp only [step, State.instantiated, hc, if_true, withPort, onNext_eq_next, portData_frontRead] at h
    obtain ⟨u, hu, ht⟩ := h
    exact ⟨hc, u, hu, by cases ht; rfl⟩
  · simp [step, State.instantiated, hc] at h

/-- Inversion: what a step that has a next state does. -/
theorem step_next {s t : State} (h : step s = .next t) :
    s.cfg.ok = true ∧ ∃ u, RowStep s.sample u ∧ t = u.drive (readPort s.sample s.sample.pins.rdAddr) := by
  obtain ⟨hc, u, hu, ht⟩ := step_exec h
  exact ⟨hc, u, rowStep_of_exec hu, ht⟩

end Sys2Proof.Machine
end

