-- ==== Sys2Proof/Laws/Run.lean ====
section
/-! SUPPORT. Runs: composition, what a step does to the outside agents' choices, and the byte a reading state is offered. -/

namespace Sys2Proof.Machine

/-! ### Composition -/

@[simp] theorem runSteps_zero (s : State) : runSteps 0 s = .next s := rfl

theorem runSteps_succ (k : Nat) (s : State) : runSteps (k + 1) s = onNext (step s) (runSteps k) := rfl

theorem runSteps_one (s : State) : runSteps 1 s = step s := by
  rw [runSteps_succ]
  cases step s <;> rfl

theorem runSteps_succ_of_step {s t : State} (k : Nat) (h : step s = .next t) :
    runSteps (k + 1) s = runSteps k t := by
  rw [runSteps_succ, h, onNext_next]

theorem runSteps_add (a b : Nat) (s : State) : runSteps (a + b) s = onNext (runSteps a s) (runSteps b) := by
  induction a generalizing s with
  | zero => simp
  | succ a ih =>
    rw [Nat.add_right_comm, runSteps_succ, runSteps_succ]
    cases h : step s with
    | next t => simpa using ih t
    | fault r => simp
    | refused r => simp

theorem runSteps_add_of_run {s t : State} {a : Nat} (b : Nat) (h : runSteps a s = .next t) :
    runSteps (a + b) s = runSteps b t := by
  rw [runSteps_add, h, onNext_next]

theorem runSteps_last {k : Nat} {s t : State} (h : runSteps (k + 1) s = .next t) :
    ∃ u, runSteps k s = .next u ∧ step u = .next t := by
  rw [runSteps_add, onNext_eq_next] at h
  obtain ⟨u, hu, ht⟩ := h
  exact ⟨u, hu, by rwa [runSteps_one] at ht⟩

/-! ### The outside agents along a run -/

theorem nextStimulus_eq (s : State) : s.nextStimulus = s.stimulusAt 0 := by
  simp only [State.nextStimulus, State.stimulusAt]
  cases s.script <;> rfl

/-- What every row leaves of the sampled state's outside. -/
theorem RowStep.outside {c u : State} (h : RowStep c u) :
    u.cfg = c.cfg ∧ u.pins = c.pins ∧ u.script = c.script ∧ u.steps = c.steps := by
  cases h <;> refine ⟨?_, ?_, ?_, ?_⟩ <;> simp [captureMeta, captureLast] <;> split <;> simp

theorem step_outside {s t : State} (h : step s = .next t) :
    t.cfg = s.cfg ∧ t.pins = s.sample.pins ∧ t.script = s.script.tail ∧ t.steps = s.steps + 1 := by
  obtain ⟨-, u, hu, rfl⟩ := step_next h
  exact hu.outside

theorem step_cfg {s t : State} (h : step s = .next t) : t.cfg = s.cfg := (step_outside h).1

theorem stimulusAt_step {s t : State} (h : step s = .next t) (n : Nat) :
    t.stimulusAt n = s.stimulusAt (n + 1) := by
  obtain ⟨-, -, hs, hn⟩ := step_outside h
  simp only [State.stimulusAt, hs, hn]
  cases s.script with
  | nil => simp [Nat.add_assoc, Nat.add_comm 1 n]
  | cons x xs => simp [Nat.add_assoc, Nat.add_comm 1 n]

theorem runSteps_cfg {k : Nat} {s t : State} (h : runSteps k s = .next t) : t.cfg = s.cfg := by
  induction k generalizing s with
  | zero => cases h; rfl
  | succ k ih =>
    rw [runSteps_succ, onNext_eq_next] at h
    obtain ⟨u, hu, ht⟩ := h
    rw [ih ht, step_cfg hu]

theorem stimulusAt_run {k : Nat} {s t : State} (h : runSteps k s = .next t) (n : Nat) :
    t.stimulusAt n = s.stimulusAt (k + n) := by
  induction k generalizing s with
  | zero => cases h; simp
  | succ k ih =>
    rw [runSteps_succ, onNext_eq_next] at h
    obtain ⟨u, hu, ht⟩ := h
    rw [ih ht, stimulusAt_step hu, Nat.add_right_comm]

theorem noReset_head {s : State} {n : Nat} (h : s.noReset (n + 1)) : s.nextStimulus.rst = false := by
  rw [nextStimulus_eq]
  exact h 0 (Nat.succ_pos n)

theorem noReset_step {s t : State} {n : Nat} (hs : step s = .next t) (h : s.noReset (n + 1)) : t.noReset n := by
  intro i hi
  rw [stimulusAt_step hs]
  exact h (i + 1) (Nat.succ_lt_succ hi)

theorem noReset_mono {s : State} {m n : Nat} (hmn : m ≤ n) (h : s.noReset n) : s.noReset m :=
  fun i hi => h i (Nat.lt_of_lt_of_le hi hmn)

theorem noReset_run {s t : State} {k n : Nat} (hs : runSteps k s = .next t) (h : s.noReset (k + n)) :
    t.noReset n := by
  intro i hi
  rw [stimulusAt_run hs]
  exact h (k + i) (Nat.add_lt_add_left hi k)

@[simp] theorem arrivals_zero (s : State) : s.arrivals 0 = [] := rfl

theorem arrivals_step {s t : State} (h : step s = .next t) (n : Nat) :
    s.arrivals (n + 1) = s.nextStimulus.arrive ++ t.arrivals n := by
  simp only [State.arrivals, List.range_succ_eq_map, List.flatMap_cons, List.flatMap_map, nextStimulus_eq,
    stimulusAt_step h, Nat.succ_eq_add_one]

theorem arrivals_run {k : Nat} {s t : State} (h : runSteps k s = .next t) (n : Nat) :
    s.arrivals (k + n) = s.arrivals k ++ t.arrivals n := by
  induction k generalizing s with
  | zero => cases h; simp
  | succ k ih =>
    rw [runSteps_succ, onNext_eq_next] at h
    obtain ⟨u, hu, ht⟩ := h
    rw [Nat.add_right_comm, arrivals_step hu, arrivals_step hu, ih ht, List.append_assoc]

/-! ### The offered byte -/

theorem sample_rx_of_queue {s : State} {b : Byte} {q : List Byte} (h : s.rxQueue = b :: q) :
    s.sample.pins.rx = some b ∧ s.sample.rxQueue = b :: (q ++ s.nextStimulus.arrive) := by
  simp [State.nextQueue, h]

theorem sample_rx_none {s : State} (h : s.rxQueue = []) (ha : s.nextStimulus.arrive = []) :
    s.sample.pins.rx = none ∧ s.sample.rxQueue = [] := by
  simp [State.nextQueue, h, ha]

/-- An offered byte is the head of what the byte source holds. -/
theorem sample_queue_of_rx {s : State} {b : Byte} (h : s.sample.pins.rx = some b) :
    s.sample.rxQueue = b :: s.sample.rxQueue.tail := by
  have h' : s.nextQueue.head? = some b := h
  show s.nextQueue = b :: s.nextQueue.tail
  cases hq : s.nextQueue with
  | nil => simp [hq] at h'
  | cons c q => simp_all

end Sys2Proof.Machine
end

