-- ==== Sys2Proof/Laws/Forward.lean ====
section
/-! SUPPORT. Steps in the forward direction: what a step answers when its row is known, and how such steps chain along a run. -/

namespace Sys2Proof.Machine

/-! ### What stays, chained -/

theorem sameRoles_trans {a b c : State} (h : SameRoles a b) (h' : SameRoles b c) : SameRoles a c :=
  ⟨h'.1.trans h.1, h'.2.1.trans h.2.1, h'.2.2.trans h.2.2⟩

theorem sameBuffers_trans {a b c : State} (h : SameBuffers a b) (h' : SameBuffers b c) : SameBuffers a c :=
  fun k off => (h' k off).trans (h k off)

theorem sameRegisters_refl (s : State) : SameRegisters s s := ⟨rfl, ⟨rfl, rfl, rfl⟩, rfl, rfl, ⟨rfl, rfl, rfl⟩⟩

theorem sameRegisters_trans {a b c : State} (h : SameRegisters a b) (h' : SameRegisters b c) :
    SameRegisters a c := by
  simp only [SameRegisters, SameHeader, SameRoles] at *
  simp only [h, h', and_self]

/-! ### A step that consumes a byte and stores none -/

/-- A byte `b` is offered, with `q` behind it (the step's arrivals among them), in a step without a reset. -/
structure Offered (s : State) (b : Byte) (q : List Byte) : Prop where
  ok : s.cfg.ok = true
  noRst : s.nextStimulus.rst = false
  queue : s.nextQueue = b :: q

/-- An offered byte is sampled. -/
theorem Offered.rx {s : State} {b : Byte} {q : List Byte} (h : Offered s b q) : s.sample.pins.rx = some b := by
  rw [sample_pins_rx, h.queue, List.head?_cons]

/-- The step goes to `t`, leaves `q` in the byte source, and shows nothing new. -/
structure StepsTo (s t : State) (q : List Byte) : Prop where
  run : step s = .next t
  queue : t.rxQueue = q
  roles : SameRoles s t
  buffers : SameBuffers s t

theorem Offered.stepsTo {s u : State} {b : Byte} {q : List Byte} (h : Offered s b q) (i : Instr)
    (he : exec i s.sample = .next u) (hf : s.sample.fetch = i) (hu : u.rxQueue = s.sample.rxQueue.tail)
    (hr : SameRoles s u) (hb : SameBuffers s u) :
    StepsTo s (u.drive (readPort s.sample s.sample.pins.rdAddr)) q :=
  ⟨step_of_row h.ok (by rw [hf]; exact he), by simp [hu, h.queue], hr, hb⟩

variable {s : State} {b : Byte} {q : List Byte}

/-- R70. -/
theorem step_idleM0 (h : Offered s s.cfg.marker0 q) (hs : s.st = .idle) :
    ∃ t, StepsTo s t q ∧ t.st = .gotM0 ∧ SameHeader s t :=
  ⟨_, h.stepsTo (.idleM0 s.cfg.marker0) rfl
      (by rw [fetch_idle_byte (s := s.sample) h.noRst hs h.rx]; exact if_pos rfl)
      rfl ⟨rfl, rfl, rfl⟩ (fun _ _ => rfl), rfl, ⟨rfl, rfl, rfl⟩⟩

/-- R71. -/
theorem step_idleSkip (h : Offered s b q) (hs : s.st = .idle) (hb : b ≠ s.cfg.marker0) :
    ∃ t, StepsTo s t q ∧ t.st = .idle ∧ SameHeader s t :=
  ⟨_, h.stepsTo (.idleSkip b) rfl
      (by rw [fetch_idle_byte (s := s.sample) h.noRst hs h.rx]; exact if_neg hb)
      rfl ⟨rfl, rfl, rfl⟩ (fun _ _ => rfl), hs, ⟨rfl, rfl, rfl⟩⟩

/-- R72. -/
theorem step_gotM1 (h : Offered s s.cfg.marker1 q) (hs : s.st = .gotM0) :
    ∃ t, StepsTo s t q ∧ t.st = .hdr ∧ t.hcnt = 0#2 :=
  ⟨_, h.stepsTo (.gotM1 s.cfg.marker1) rfl
      (by rw [fetch_gotM0_byte (s := s.sample) h.noRst hs h.rx]; exact if_pos rfl)
      rfl ⟨rfl, rfl, rfl⟩ (fun _ _ => rfl), rfl, rfl⟩

/-- R73. -/
theorem step_gotFail (h : Offered s b q) (hs : s.st = .gotM0) (hb : b ≠ s.cfg.marker1) :
    ∃ t, StepsTo s t q ∧ t.st = .idle ∧ SameHeader s t :=
  ⟨_, h.stepsTo (.gotFail b) rfl
      (by rw [fetch_gotM0_byte (s := s.sample) h.noRst hs h.rx]; exact if_neg hb)
      rfl ⟨rfl, rfl, rfl⟩ (fun _ _ => rfl), rfl, ⟨rfl, rfl, rfl⟩⟩

/-- R76: the captured fields depend on the header registers alone. -/
theorem captureMeta_congr (b : Byte) {s t : State} (hh : t.hcnt = s.hcnt) (hl : t.lenR = s.lenR)
    (hq : t.seqR = s.seqR) :
    (captureMeta b t).lenR = (captureMeta b s).lenR ∧ (captureMeta b t).seqR = (captureMeta b s).seqR := by
  unfold captureMeta
  rw [hh]
  split <;> simp [hl, hq]

/-- R76. -/
theorem step_hdrByte (h : Offered s b q) (hs : s.st = .hdr) (hc : s.hcnt ≠ 3#2) :
    ∃ t, StepsTo s t q ∧ t.st = .hdr ∧ t.hcnt = s.hcnt + 1#2 ∧
      t.lenR = (captureMeta b s).lenR ∧ t.seqR = (captureMeta b s).seqR :=
  have hm := captureMeta_congr b (s := s) (t := s.sample.consume) rfl rfl rfl
  ⟨_, h.stepsTo (.hdrByte b) rfl (fetch_hdr_byte (s := s.sample) h.noRst hs h.rx hc)
      (by simp) (by simp [SameRoles]) (by simp [SameBuffers]), by simp [hs], rfl, hm.1, hm.2⟩

/-- R78. -/
theorem step_hdrAccept (h : Offered s b q) (hs : s.st = .hdr) (hc : s.hcnt = 3#2)
    (hl : classify s.cfg s.lenR = .accept) :
    ∃ t, StepsTo s t q ∧ t.st = .payload ∧ t.cnt = 0#16 ∧ t.seqR = setHigh s.seqR b :=
  ⟨_, h.stepsTo (.hdrAccept b) rfl
      (by rw [fetch_hdr_last (s := s.sample) h.noRst hs h.rx hc]
          simp only [sample_cfg, sample_lenR, hl])
      rfl ⟨rfl, rfl, rfl⟩ (fun _ _ => rfl), rfl, rfl, rfl⟩

/-- R80. -/
theorem step_hdrTooLarge (h : Offered s b q) (hs : s.st = .hdr) (hc : s.hcnt = 3#2)
    (hl : classify s.cfg s.lenR = .tooLarge) :
    ∃ t, StepsTo s t q ∧ t.st = .hold ∧ t.out.ev = .lengthTooLarge :=
  ⟨_, h.stepsTo (.hdrTooLarge b) rfl
      (by rw [fetch_hdr_last (s := s.sample) h.noRst hs h.rx hc]
          simp only [sample_cfg, sample_lenR, hl])
      rfl ⟨rfl, rfl, rfl⟩ (fun _ _ => rfl), rfl, rfl⟩

/-- R79. -/
theorem step_hdrMismatch (h : Offered s b q) (hs : s.st = .hdr) (hc : s.hcnt = 3#2)
    (hl : classify s.cfg s.lenR = .mismatch) :
    ∃ t, StepsTo s t q ∧ (s.lenR = 0#16 → t.st = .idle) ∧
      (s.lenR ≠ 0#16 → t.st = .discard ∧ t.cnt = s.lenR) := by
  have hf : s.sample.fetch = .hdrMismatch b := by
    rw [fetch_hdr_last (s := s.sample) h.noRst hs h.rx hc]
    simp only [sample_cfg, sample_lenR, hl]
  by_cases hz : s.lenR = 0#16
  · exact ⟨_, h.stepsTo (u := ((captureLast b s.sample).goto .idle).emit .lengthMismatch) _
        (by simp only [exec, execHdrMismatch, sample_lenR, hz, if_true]) hf rfl ⟨rfl, rfl, rfl⟩ (fun _ _ => rfl),
      fun _ => rfl, fun hn => absurd hz hn⟩
  · exact ⟨_, h.stepsTo (u := (((captureLast b s.sample).setCnt s.lenR).goto .discard).emit .lengthMismatch) _
        (by simp only [exec, execHdrMismatch, sample_lenR, hz, if_false]) hf rfl ⟨rfl, rfl, rfl⟩ (fun _ _ => rfl),
      fun hn => absurd hn hz, fun _ => ⟨rfl, rfl⟩⟩

/-- R90, R91. -/
theorem step_discard (h : Offered s b q) (hs : s.st = .discard) :
    ∃ t, StepsTo s t q ∧ (s.cnt = 1#16 → t.st = .idle) ∧
      (s.cnt ≠ 1#16 → t.st = .discard ∧ t.cnt = s.cnt - 1#16) := by
  have hf := fetch_discard_byte (s := s.sample) h.noRst hs h.rx
  by_cases hz : s.cnt = 1#16
  · exact ⟨_, h.stepsTo (.discDone b) rfl (hf.trans (if_pos hz)) rfl ⟨rfl, rfl, rfl⟩ (fun _ _ => rfl),
      fun _ => rfl, fun hn => absurd hz hn⟩
  · exact ⟨_, h.stepsTo (.discByte b) rfl (hf.trans (if_neg hz)) rfl ⟨rfl, rfl, rfl⟩ (fun _ _ => rfl),
      fun hn => absurd hn hz, fun _ => ⟨hs, rfl⟩⟩

/-! ### A step that consumes a payload byte -/

/-- R86. -/
theorem step_payByte (h : Offered s b q) (hs : s.st = .payload) (hc : s.cnt.toNat < s.cfg.frameLen - 1) :
    ∃ t, step s = .next t ∧ t.rxQueue = q ∧ SameRoles s t ∧
      t.bufByte s.back s.cnt = b ∧ SameBuffersBut s.back s.cnt s t ∧
      t.st = .payload ∧ t.cnt = s.cnt + 1#16 ∧ t.seqR = s.seqR := by
  have hf : s.sample.fetch = .payByte b :=
    (fetch_payload_byte (s := s.sample) h.noRst hs h.rx).trans
      (if_neg (show ¬ s.cnt.toNat = s.cfg.frameLen - 1 by omega))
  have he : exec (.payByte b) s.sample =
      .next (((s.sample.store s.back s.cnt b).consume.setCnt (s.cnt + 1#16)).emit .none) := by
    simp only [exec, execPayByte]
    rw [bufWrite_in_range (show s.sample.cnt.toNat < s.sample.cfg.frameLen by
      show s.cnt.toNat < s.cfg.frameLen; omega), onNext_next]
    rfl
  rw [← hf] at he
  refine ⟨_, step_of_row h.ok he, by simp [h.queue], by simp [SameRoles], ?_, ?_,
    by simp [hs], by simp, by simp⟩
  · exact store_bufByte_same s.sample s.back s.cnt b
  · exact fun k off hne => store_bufByte_other s.sample s.back k s.cnt off b hne

/-- R87. -/
theorem step_payCommit (h : Offered s b q) (hs : s.st = .payload) (hc : s.cnt.toNat = s.cfg.frameLen - 1) :
    ∃ t, step s = .next t ∧ t.rxQueue = q ∧
      t.front = s.back ∧ t.hasFrame = true ∧ t.lastSeq = s.seqR ∧
      t.bufByte s.back s.cnt = b ∧ SameBuffersBut s.back s.cnt s t ∧ t.st = .render ∧ t.out.ev = .frameReady := by
  have hf : s.sample.fetch = .payCommit b :=
    (fetch_payload_byte (s := s.sample) h.noRst hs h.rx).trans (if_pos hc)
  have hfl := ((Params.ok_iff s.cfg).mp h.ok).1
  have he : exec (.payCommit b) s.sample =
      .next ((s.sample.store s.back s.cnt b).consume.commit.goto .render) := by
    simp only [exec, execPayCommit]
    rw [bufWrite_in_range (show s.sample.cnt.toNat < s.sample.cfg.frameLen by
      show s.cnt.toNat < s.cfg.frameLen; omega), onNext_next]
    rfl
  rw [← hf] at he
  refine ⟨_, step_of_row h.ok he, by simp [h.queue], by simp [State.back], by simp, by simp,
    ?_, ?_, by simp, by simp⟩
  · exact store_bufByte_same s.sample s.back s.cnt b
  · exact fun k off hne => store_bufByte_other s.sample s.back k s.cnt off b hne

/-! ### Steps that consume nothing -/

/-- R74, R75: no byte in IDLE or GOT_M0. -/
theorem step_scanSilence (hok : s.cfg.ok = true) (hr : s.nextStimulus.rst = false)
    (hs : s.st = .idle ∨ s.st = .gotM0) (hq : s.nextQueue = []) :
    ∃ t, step s = .next t ∧ SameRegisters s t ∧ SameBuffers s t ∧ t.rxQueue = [] := by
  have hx : s.sample.pins.rx = none := by rw [sample_pins_rx, hq, List.head?_nil]
  refine ⟨_, step_of_row (u := s.sample.wait) hok ?_, sameRegisters_refl s, fun _ _ => rfl, hq⟩
  rcases hs with hs | hs
  · rw [fetch_idle_none (s := s.sample) hr hs hx]; rfl
  · rw [fetch_gotM0_none (s := s.sample) hr hs hx]; rfl

/-- R82, R89, R94: silence in an armed read before the timeout. -/
theorem step_armedWait (hok : s.cfg.ok = true) (hr : s.nextStimulus.rst = false)
    (hs : s.st = .hdr ∨ s.st = .payload ∨ s.st = .discard) (hq : s.nextQueue = [])
    (ht : s.sample.tmo = false) :
    ∃ t, step s = .next t ∧ SameRegisters s t ∧ SameBuffers s t ∧ t.rxQueue = [] := by
  have hx : s.sample.pins.rx = none := by rw [sample_pins_rx, hq, List.head?_nil]
  refine ⟨_, step_of_row (u := s.sample.wait) hok ?_, sameRegisters_refl s, fun _ _ => rfl, hq⟩
  rcases hs with hs | hs | hs
  · rw [fetch_hdr_none (s := s.sample) hr hs hx, ht]; rfl
  · rw [fetch_payload_none (s := s.sample) hr hs hx, ht]; rfl
  · rw [fetch_discard_none (s := s.sample) hr hs hx, ht]; rfl

/-- R81, R88, R93: silence in an armed read at the timeout. -/
theorem step_armedTimeout (hok : s.cfg.ok = true) (hr : s.nextStimulus.rst = false)
    (hs : s.st = .hdr ∨ s.st = .payload ∨ s.st = .discard) (hq : s.nextQueue = [])
    (ht : s.sample.tmo = true) :
    ∃ t, step s = .next t ∧ t.st = .idle ∧ t.out.ev = .transportTimeout ∧ SameRoles s t ∧ SameBuffers s t := by
  have hx : s.sample.pins.rx = none := by rw [sample_pins_rx, hq, List.head?_nil]
  refine ⟨_, step_of_row (u := s.sample.abandon) hok ?_, rfl, rfl, ⟨rfl, rfl, rfl⟩, fun _ _ => rfl⟩
  rcases hs with hs | hs | hs
  · rw [fetch_hdr_none (s := s.sample) hr hs hx, ht]; rfl
  · rw [fetch_payload_none (s := s.sample) hr hs hx, ht]; rfl
  · rw [fetch_discard_none (s := s.sample) hr hs hx, ht]; rfl

/-- R96, R98: RENDER and HOLD without a tick. -/
theorem step_hold (hok : s.cfg.ok = true) (hr : s.nextStimulus.rst = false)
    (hs : s.st = .render ∨ s.st = .hold) (ht : s.nextStimulus.tick = false) :
    ∃ t, step s = .next t ∧ SameRegisters s t ∧ SameBuffers s t ∧
      t.rxQueue = s.rxQueue ++ s.nextStimulus.arrive := by
  have ht : s.sample.pins.tick = false := ht
  refine ⟨_, step_of_row (u := s.sample.wait) hok ?_, sameRegisters_refl s, fun _ _ => rfl, rfl⟩
  rcases hs with hs | hs
  · rw [fetch_render (s := s.sample) hr hs, ht]; rfl
  · rw [fetch_hold (s := s.sample) hr hs, ht]; rfl

/-- R95, R97: RENDER and HOLD with a tick. -/
theorem step_release (hok : s.cfg.ok = true) (hr : s.nextStimulus.rst = false)
    (hs : s.st = .render ∨ s.st = .hold) (ht : s.nextStimulus.tick = true) :
    ∃ t, step s = .next t ∧ t.st = .idle ∧ SameRoles s t ∧ SameBuffers s t ∧
      t.rxQueue = s.rxQueue ++ s.nextStimulus.arrive := by
  have ht : s.sample.pins.tick = true := ht
  refine ⟨_, step_of_row (u := s.sample.release) hok ?_, rfl, ⟨rfl, rfl, rfl⟩, fun _ _ => rfl, rfl⟩
  rcases hs with hs | hs
  · rw [fetch_render (s := s.sample) hr hs, ht]; rfl
  · rw [fetch_hold (s := s.sample) hr hs, ht]; rfl

/-! ### Chains of consuming steps -/

/-- `k` steps go from `s` to `t`, leave `q` and the arrivals in the byte source, and show nothing new. -/
structure RunsTo (k : Nat) (s t : State) (q : List Byte) : Prop where
  run : runSteps k s = .next t
  queue : t.rxQueue = q ++ s.arrivals k
  roles : SameRoles s t
  buffers : SameBuffers s t

theorem RunsTo.zero (s : State) : RunsTo 0 s s s.rxQueue := ⟨rfl, by simp, ⟨rfl, rfl, rfl⟩, fun _ _ => rfl⟩

theorem RunsTo.cfg {k : Nat} {s t : State} {q : List Byte} (h : RunsTo k s t q) : t.cfg = s.cfg :=
  runSteps_cfg h.run

theorem RunsTo.stimulus {k : Nat} {s t : State} {q : List Byte} (h : RunsTo k s t q) :
    t.nextStimulus = s.stimulusAt k := by
  rw [nextStimulus_eq, stimulusAt_run h.run, Nat.add_zero]

theorem RunsTo.arrivals_succ {k : Nat} {s t : State} {q : List Byte} (h : RunsTo k s t q) :
    s.arrivals (k + 1) = s.arrivals k ++ t.nextStimulus.arrive := by
  rw [arrivals_run h.run, nextStimulus_eq]
  simp [State.arrivals]

theorem RunsTo.offered {k n : Nat} {s t : State} {b : Byte} {q : List Byte} (h : RunsTo k s t (b :: q))
    (hok : s.cfg.ok = true) (hn : s.noReset n) (hk : k < n) : Offered t b (q ++ s.arrivals (k + 1)) :=
  ⟨by rw [h.cfg]; exact hok, by rw [h.stimulus]; exact hn k hk, by
    rw [State.nextQueue, h.queue, h.arrivals_succ, List.append_assoc, List.cons_append]⟩

theorem RunsTo.snoc {k : Nat} {s t u : State} {b : Byte} {q : List Byte} (h : RunsTo k s t (b :: q))
    (h' : StepsTo t u (q ++ s.arrivals (k + 1))) : RunsTo (k + 1) s u q :=
  ⟨by rw [runSteps_add_of_run 1 h.run, runSteps_one]; exact h'.run, h'.queue,
    sameRoles_trans h.roles h'.roles, sameBuffers_trans h.buffers h'.buffers⟩

theorem RunsTo.append {k n : Nat} {s t u : State} {q q' : List Byte} (h : RunsTo k s t q)
    (h' : RunsTo n t u (q' ++ s.arrivals k)) : RunsTo (k + n) s u q' :=
  ⟨by rw [runSteps_add_of_run _ h.run]; exact h'.run,
    by rw [h'.queue, arrivals_run h.run, List.append_assoc],
    sameRoles_trans h.roles h'.roles, sameBuffers_trans h.buffers h'.buffers⟩

/-- R54, R70, R72, R76: from IDLE, the first five header bytes put the declared length into `len_r`. -/
theorem run_header {s : State} {len seq : Half} {rest : List Byte} {n : Nat} (hok : s.cfg.ok = true)
    (hs : s.st = .idle) (hq : s.rxQueue = wireHeader s.cfg len seq ++ rest) (hn : s.noReset n) (h5 : 5 < n) :
    ∃ t, RunsTo 5 s t (highByte seq :: rest) ∧ t.st = .hdr ∧ t.hcnt = 3#2 ∧ t.lenR = len ∧
      lowByte t.seqR = lowByte seq := by
  have r0 := RunsTo.zero s
  rw [hq] at r0
  simp only [wireHeader, List.cons_append, List.nil_append] at r0
  obtain ⟨t1, k1, a1, _⟩ := step_idleM0 (r0.offered hok hn (by omega)) hs
  have r1 := r0.snoc k1
  have o1 := r1.offered hok hn (by omega)
  rw [← r1.cfg] at o1
  obtain ⟨t2, k2, a2, c2⟩ := step_gotM1 o1 a1
  have r2 := r1.snoc k2
  obtain ⟨t3, k3, a3, c3, l3, _⟩ := step_hdrByte (r2.offered hok hn (by omega)) a2 (by rw [c2]; decide)
  have r3 := r2.snoc k3
  rw [c2] at c3
  obtain ⟨t4, k4, a4, c4, l4, _⟩ := step_hdrByte (r3.offered hok hn (by omega)) a3 (by rw [c3]; decide)
  have r4 := r3.snoc k4
  rw [c3] at c4
  obtain ⟨t5, k5, a5, c5, l5, q5⟩ := step_hdrByte (r4.offered hok hn (by omega)) a4 (by rw [c4]; decide)
  rw [c4] at c5
  refine ⟨t5, r4.snoc k5, a5, by rw [c5]; decide, ?_, ?_⟩
  · have h5 : t5.lenR = t4.lenR := by rw [l5]; simp [captureMeta, c4]
    have h4 : t4.lenR = setHigh t3.lenR (highByte len) := by rw [l4]; simp [captureMeta, c3]
    have h3 : t3.lenR = setLow t2.lenR (lowByte len) := by rw [l3]; simp [captureMeta, c2]
    rw [h5, h4, h3]
    simp [setLow, setHigh, u16le_lowByte_highByte]
  · rw [q5]
    simp [captureMeta, c4, setLow]

/-- R78 to R80: the last metadata byte completes the sequence number. -/
theorem setHigh_highByte_of_lowByte {x y : Half} (h : lowByte x = lowByte y) : setHigh x (highByte y) = y := by
  rw [setHigh, h, u16le_lowByte_highByte]

/-! ### Reachable states -/

theorem Reachable.run {k : Nat} {s t : State} (hs : Reachable s) (h : runSteps k s = .next t) : Reachable t := by
  induction k generalizing s with
  | zero => cases h; exact hs
  | succ k ih =>
    rw [runSteps_succ, onNext_eq_next] at h
    obtain ⟨u, hu, ht⟩ := h
    exact ih (.step _ _ hs hu) ht

end Sys2Proof.Machine
end

