-- ==== Sys2Proof/Tests/Slice0.lean ====
section
/-! SUPPORT. The model's own tests. Words are written out from R60 (30_encoding.md), expected results are the vectors of 95_test_vectors.md, and for every obligation with hypotheses a witness meets them. -/

namespace Sys2Proof.Tests

open Sys2Proof Sys2Proof.Machine

/-! ### Small states -/

/-- One channel of one pixel: FRAME_LEN 3. -/
def p3 : Params := { Params.ex1 with n0 := 1, n1 := 0 }

/-- A state right after reset but for `st`, and with a definite `last_seq`. -/
def at0 (p : Params) (st : SyncState) : State := { State.resetWith p with st := st, lastSeq := 0xBEEF#16 }

/-- One step's stimulus with a byte. -/
def giving (b : Byte) : Stimulus := { rst := false, tick := false, arrive := [b], nowMs := 0#32, rdAddr := 0#16 }

/-- One step's stimulus without a byte, at a time. -/
def silent (now : Millis) : Stimulus := { rst := false, tick := false, arrive := [], nowMs := now, rdAddr := 0#16 }

/-- `n` idle stimuli at time 0. -/
def calm (n : Nat) : List Stimulus := List.replicate n (silent 0#32)

/-- The state with its next inputs. -/
def given (s : State) (x : Stimulus) : State := { s with script := [x] }

/-- The next step has this SEL, performs this row, and leaves a state of which `f` holds. -/
def seen (s : State) (sel : BitVec 7) (i : Instr) (f : State → Bool) : Bool :=
  match step s with
  | .next t => decide (s.sample.selector.sel = sel) && decide (s.sample.fetch = i) && f t
  | .fault _ => false
  | .refused _ => false

/-! ### Well-formedness: one ill-formed term for each check, refused -/

theorem test_wf_refuses_bad_parameters :
    Instr.wf { Params.ex1 with n0 := 0, n1 := 0 } .reset = false ∧
    Instr.wf { Params.ex1 with n0 := 21844, n1 := 2 } .idleWait = false ∧
    Instr.wf { Params.ex1 with timeoutMs := 0#32 } .payWait = false := by decide

theorem test_wf_refuses_idleM0_other_byte : Instr.wf Params.ex1 (.idleM0 0x55#8) = false := by decide
theorem test_wf_refuses_idleSkip_marker : Instr.wf Params.ex1 (.idleSkip 0xAA#8) = false := by decide
theorem test_wf_refuses_gotM1_other_byte : Instr.wf Params.ex1 (.gotM1 0xAA#8) = false := by decide
theorem test_wf_refuses_gotFail_marker : Instr.wf Params.ex1 (.gotFail 0x55#8) = false := by decide
theorem test_wf_refuses_hdrTooLarge_without_length :
    Instr.wf { Params.ex1 with discardCeil := 0xFFFF#16 } (.hdrTooLarge 0#8) = false := by decide
theorem test_wf_refuses_read_outside : Instr.wf Params.ex1 (.frontRead 12#16) = false := by decide

/-- Well-formed operations of the marker scan, the header and reset. -/
def wellFormedScan : List Instr :=
  [.reset, .idleM0 0xAA#8, .idleSkip 0#8, .idleWait, .gotM1 0x55#8, .gotFail 0xAA#8, .gotWait, .hdrByte 1#8,
    .hdrAccept 1#8, .hdrMismatch 1#8, .hdrTooLarge 1#8, .hdrTimeout, .hdrWait]

/-- Well-formed operations of the other families. -/
def wellFormedRest : List Instr :=
  [.payByte 1#8, .payCommit 1#8, .payTimeout, .payWait, .discByte 1#8, .discDone 1#8, .discTimeout, .discWait,
    .renderRelease, .renderHold, .holdRelease, .holdHold, .reservedState, .frontRead 11#16]

theorem test_wf_accepts_every_constructor :
    wellFormedScan.all (Instr.wf Params.ex1) = true ∧ wellFormedRest.all (Instr.wf Params.ex1) = true := by decide

/-! ### Decoding: words written out from R58 and R60, bits 6 to 0 = rst, tick, tmo, rxv, st -/

theorem test_decode_reset :
    decodeSel Params.ex1 ⟨0b1000000#7, 0#8, 0#2, 0#16, 0#16⟩ = .reset ∧
    decodeSel Params.ex1 ⟨0b1111111#7, 0x99#8, 3#2, 12#16, 1#16⟩ = .reset := by decide

theorem test_decode_scan :
    decodeSel Params.ex1 ⟨0b0001000#7, 0xAA#8, 0#2, 0#16, 0#16⟩ = .idleM0 0xAA#8 ∧
    decodeSel Params.ex1 ⟨0b0001000#7, 0x55#8, 0#2, 0#16, 0#16⟩ = .idleSkip 0x55#8 ∧
    decodeSel Params.ex1 ⟨0b0000000#7, 0#8, 0#2, 0#16, 0#16⟩ = .idleWait ∧
    decodeSel Params.ex1 ⟨0b0001001#7, 0x55#8, 0#2, 0#16, 0#16⟩ = .gotM1 0x55#8 ∧
    decodeSel Params.ex1 ⟨0b0001001#7, 0xAA#8, 0#2, 0#16, 0#16⟩ = .gotFail 0xAA#8 ∧
    decodeSel Params.ex1 ⟨0b0000001#7, 0#8, 0#2, 0#16, 0#16⟩ = .gotWait := by decide

theorem test_decode_scan_ignores_tmo_and_tick :
    decodeSel Params.ex1 ⟨0b0111000#7, 0xAA#8, 0#2, 0#16, 0#16⟩ = .idleM0 0xAA#8 ∧
    decodeSel Params.ex1 ⟨0b0110001#7, 0#8, 0#2, 0#16, 0#16⟩ = .gotWait := by decide

theorem test_decode_header :
    decodeSel Params.ex1 ⟨0b0001010#7, 0x0C#8, 2#2, 12#16, 0#16⟩ = .hdrByte 0x0C#8 ∧
    decodeSel Params.ex1 ⟨0b0001010#7, 0x00#8, 3#2, 12#16, 0#16⟩ = .hdrAccept 0x00#8 ∧
    decodeSel Params.ex1 ⟨0b0001010#7, 0x00#8, 3#2, 4096#16, 0#16⟩ = .hdrMismatch 0x00#8 ∧
    decodeSel Params.ex1 ⟨0b0001010#7, 0x00#8, 3#2, 4097#16, 0#16⟩ = .hdrTooLarge 0x00#8 ∧
    decodeSel Params.ex1 ⟨0b0010010#7, 0#8, 0#2, 0#16, 0#16⟩ = .hdrTimeout ∧
    decodeSel Params.ex1 ⟨0b0000010#7, 0#8, 0#2, 0#16, 0#16⟩ = .hdrWait ∧
    decodeSel Params.ex1 ⟨0b0011010#7, 0x0C#8, 0#2, 0#16, 0#16⟩ = .hdrByte 0x0C#8 := by decide

theorem test_decode_accept_before_ceiling :
    decodeSel Params.ex3 ⟨0b0001010#7, 0#8, 3#2, 6000#16, 0#16⟩ = .hdrAccept 0#8 ∧
    decodeSel Params.ex3 ⟨0b0001010#7, 0#8, 3#2, 6001#16, 0#16⟩ = .hdrTooLarge 0#8 := by decide

theorem test_decode_payload :
    decodeSel Params.ex1 ⟨0b0001011#7, 0xFF#8, 0#2, 0#16, 10#16⟩ = .payByte 0xFF#8 ∧
    decodeSel Params.ex1 ⟨0b0001011#7, 0x07#8, 0#2, 0#16, 11#16⟩ = .payCommit 0x07#8 ∧
    decodeSel Params.ex1 ⟨0b0010011#7, 0#8, 0#2, 0#16, 5#16⟩ = .payTimeout ∧
    decodeSel Params.ex1 ⟨0b0000011#7, 0#8, 0#2, 0#16, 5#16⟩ = .payWait := by decide

theorem test_decode_discard :
    decodeSel Params.ex1 ⟨0b0001100#7, 0xAA#8, 0#2, 0#16, 2#16⟩ = .discByte 0xAA#8 ∧
    decodeSel Params.ex1 ⟨0b0001100#7, 0x00#8, 0#2, 0#16, 1#16⟩ = .discDone 0x00#8 ∧
    decodeSel Params.ex1 ⟨0b0010100#7, 0#8, 0#2, 0#16, 2#16⟩ = .discTimeout ∧
    decodeSel Params.ex1 ⟨0b0000100#7, 0#8, 0#2, 0#16, 2#16⟩ = .discWait := by decide

theorem test_decode_swap_and_reserved :
    decodeSel Params.ex1 ⟨0b0100101#7, 0#8, 0#2, 0#16, 0#16⟩ = .renderRelease ∧
    decodeSel Params.ex1 ⟨0b0000101#7, 0#8, 0#2, 0#16, 0#16⟩ = .renderHold ∧
    decodeSel Params.ex1 ⟨0b0100110#7, 0#8, 0#2, 0#16, 0#16⟩ = .holdRelease ∧
    decodeSel Params.ex1 ⟨0b0000110#7, 0#8, 0#2, 0#16, 0#16⟩ = .holdHold ∧
    decodeSel Params.ex1 ⟨0b0111111#7, 0#8, 0#2, 0#16, 0#16⟩ = .reservedState ∧
    decode Params.ex1 (.rdport 0x000B#16) = .frontRead 11#16 := by decide

theorem test_decode_rejects_by_name :
    tableWord 7 0x80 = .error .bitsAboveWord ∧ tableWord 16 0x10000 = .error .bitsAboveWord ∧
    tableWord 24 0 = .error .noSuchFormat ∧ decodeTableWord 24 0 = none := by
  refine ⟨rfl, rfl, rfl, rfl⟩

theorem test_decodeTableWord :
    decodeTableWord 8 0x12 = some .hdrTimeout ∧ decodeTableWord 8 0x25 = some .renderRelease ∧
    decodeTableWord 16 0x000B = some (.frontRead 11#16) := by decide

/-! ### The marker scan (V-M) -/

theorem test_V_M1 :
    seen (given (at0 Params.ex1 .idle) { giving 0xAA#8 with nowMs := 7#32 }) 0x08#7 (.idleM0 0xAA#8)
      (fun t => t.st = .gotM0 ∧ t.tLast = 7#32) = true := by decide

theorem test_V_M3 :
    seen (given (at0 Params.ex1 .idle) { giving 0x00#8 with nowMs := 5000#32 }) 0x18#7 (.idleSkip 0x00#8)
      (fun t => t.st = .idle ∧ t.tLast = 5000#32 ∧ t.out.ev = .none) = true := by decide

theorem test_V_M4 :
    seen (given (at0 Params.ex1 .idle) (silent 100#32)) 0x10#7 .idleWait
      (fun t => t.st = .idle ∧ t.tLast = 0#32 ∧ t.out.ev = .none) = true := by decide

theorem test_V_M5 :
    seen (given { at0 Params.ex1 .gotM0 with hcnt := 2#2 } { giving 0x55#8 with nowMs := 7#32 }) 0x09#7 (.gotM1 0x55#8)
      (fun t => t.st = .hdr ∧ t.hcnt = 0#2 ∧ t.tLast = 7#32) = true := by decide

theorem test_V_M6 :
    seen (given (at0 Params.ex1 .gotM0) (giving 0x00#8)) 0x09#7 (.gotFail 0x00#8)
      (fun t => t.st = .idle ∧ t.out.ev = .none) = true := by decide

theorem test_V_M9 :
    seen (given (at0 Params.ex1 .gotM0) (silent 100#32)) 0x11#7 .gotWait
      (fun t => t.st = .gotM0 ∧ t.out.ev = .none) = true := by decide

theorem test_V_M10 :
    seen (given (at0 Params.ex1 .gotM0) { giving 0x55#8 with tick := true }) 0x29#7 (.gotM1 0x55#8)
      (fun t => t.st = .hdr) = true := by decide

/-! ### The header (V-H) -/

theorem test_V_H11 :
    seen (given { at0 Params.ex1 .hdr with lenR := 0x1122#16 } { giving 0x0C#8 with nowMs := 100#32 }) 0x1A#7 (.hdrByte 0x0C#8)
      (fun t => t.lenR = 0x110C#16 ∧ t.hcnt = 1#2 ∧ t.tLast = 100#32) = true := by decide

theorem test_V_H9_second_byte_is_high :
    seen (given { at0 Params.ex1 .hdr with hcnt := 1#2 } (giving 0x0C#8)) 0x0A#7 (.hdrByte 0x0C#8)
      (fun t => t.lenR = 0x0C00#16 ∧ t.hcnt = 2#2) = true := by decide

theorem test_V_H8 :
    seen (given { at0 Params.ex1 .hdr with hcnt := 3#2, lenR := 12#16, seqR := 0x00AA#16, cnt := 9#16 }
      (giving 0x55#8)) 0x0A#7 (.hdrAccept 0x55#8)
      (fun t => t.st = .payload ∧ t.cnt = 0#16 ∧ t.seqR = 0x55AA#16 ∧ t.out.ev = .none) = true := by decide

theorem test_V_H2 :
    seen (given { at0 Params.ex1 .hdr with hcnt := 3#2, lenR := 3#16, seqR := 0x0007#16 } (giving 0x00#8)) 0x0A#7 (.hdrMismatch 0x00#8)
      (fun t => t.st = .discard ∧ t.cnt = 3#16 ∧ t.seqR = 0x0007#16 ∧ t.out.ev = .lengthMismatch) = true := by decide

theorem test_V_H3 :
    seen (given { at0 Params.ex1 .hdr with hcnt := 3#2, lenR := 0#16, cnt := 5#16 } (giving 0x00#8)) 0x0A#7 (.hdrMismatch 0x00#8)
      (fun t => t.st = .idle ∧ t.cnt = 5#16 ∧ t.out.ev = .lengthMismatch) = true := by decide

theorem test_V_H6 :
    seen (given { at0 Params.ex1 .hdr with hcnt := 3#2, lenR := 4097#16 } (giving 0x00#8)) 0x0A#7 (.hdrTooLarge 0x00#8)
      (fun t => t.st = .hold ∧ t.out.ev = .lengthTooLarge) = true := by decide

theorem test_V_H10 :
    seen (given { at0 Params.ex1 .hdr with hcnt := 1#2, lenR := 12#16 } (silent 100#32)) 0x12#7 .hdrTimeout
      (fun t => t.st = .idle ∧ t.hcnt = 1#2 ∧ t.lenR = 12#16 ∧ t.out.ev = .transportTimeout) = true := by decide

theorem test_V_H12 :
    seen (given (at0 Params.ex1 .hdr) (silent 99#32)) 0x02#7 .hdrWait
      (fun t => t.st = .hdr ∧ t.out.ev = .none) = true := by decide

/-! ### The payload (V-P) -/

theorem test_V_P1 :
    seen (given (at0 Params.ex1 .payload) (giving 0xFF#8)) 0x0B#7 (.payByte 0xFF#8)
      (fun t => t.mem = [(65536, 0xFF#8)] ∧ t.cnt = 1#16 ∧ t.st = .payload) = true := by decide

theorem test_V_P2 :
    seen (given { at0 Params.ex1 .payload with cnt := 11#16, seqR := 1#16 } (giving 0x07#8)) 0x0B#7 (.payCommit 0x07#8)
      (fun t => t.mem = [(65547, 0x07#8)] ∧ t.front = 1#1 ∧ t.hasFrame = true ∧ t.lastSeq = 1#16 ∧ t.st = .render ∧ t.out.ev = .frameReady) = true := by decide

theorem test_V_P2b :
    seen (given { at0 Params.ex1 .payload with cnt := 11#16, front := 1#1 } (giving 0x07#8)) 0x0B#7 (.payCommit 0x07#8)
      (fun t => t.mem = [(11, 0x07#8)] ∧ t.front = 0#1) = true := by decide

theorem test_V_P3 :
    seen (given { at0 Params.ex1 .payload with cnt := 5#16, mem := [(65536, 1#8)] } (silent 100#32)) 0x13#7 .payTimeout
      (fun t => t.st = .idle ∧ t.out.ev = .transportTimeout ∧ t.front = 0#1 ∧ t.mem = [(65536, 1#8)]) = true := by decide

theorem test_V_P5 :
    seen (given { at0 Params.ex1 .payload with tLast := 0xFFFFFFC0#32 } (silent 0x23#32)) 0x03#7 .payWait
      (fun t => t.st = .payload) = true := by decide

theorem test_V_P5b :
    seen (given { at0 Params.ex1 .payload with tLast := 0xFFFFFFC0#32 } (silent 0x24#32)) 0x13#7 .payTimeout
      (fun t => t.st = .idle ∧ t.out.ev = .transportTimeout) = true := by decide

/-! ### The discard (V-D) -/

theorem test_V_D1 :
    seen (given { at0 Params.ex1 .discard with cnt := 3#16 } (giving 0xAA#8)) 0x0C#7 (.discByte 0xAA#8)
      (fun t => t.cnt = 2#16 ∧ t.st = .discard) = true := by decide

theorem test_V_D2 :
    seen (given { at0 Params.ex1 .discard with cnt := 1#16 } (giving 0x00#8)) 0x0C#7 (.discDone 0x00#8)
      (fun t => t.st = .idle ∧ t.out.ev = .none) = true := by decide

theorem test_V_D4 :
    seen (given { at0 Params.ex1 .discard with cnt := 2#16 } (silent 100#32)) 0x14#7 .discTimeout
      (fun t => t.st = .idle ∧ t.out.ev = .transportTimeout) = true := by decide

theorem test_V_D6 :
    seen (given { at0 Params.ex1 .discard with cnt := 2#16 } (silent 0#32)) 0x04#7 .discWait
      (fun t => t.st = .discard ∧ t.cnt = 2#16) = true := by decide

/-! ### Wait states and the read port (V-S) -/

theorem test_V_S1 :
    seen (given { at0 Params.ex1 .render with front := 1#1, hasFrame := true } { silent 0#32 with tick := true }) 0x25#7 .renderRelease
      (fun t => t.st = .idle ∧ t.front = 1#1 ∧ t.hasFrame = true ∧ t.lastSeq = 0xBEEF#16) = true := by decide

theorem test_V_S2 :
    seen (given (at0 Params.ex1 .render) (silent 100#32)) 0x15#7 .renderHold
      (fun t => t.st = .render ∧ t.out.ev = .none) = true := by decide

theorem test_V_S3 :
    seen (given (at0 Params.ex1 .render) (giving 0xAA#8)) 0x0D#7 .renderHold
      (fun t => t.st = .render ∧ t.rxQueue = [0xAA#8]) = true := by decide

theorem test_V_S4 :
    seen (given (at0 Params.ex1 .hold) { silent 0#32 with tick := true }) 0x26#7 .holdRelease
      (fun t => t.st = .idle) = true := by decide

theorem test_V_S5 :
    seen (given (at0 Params.ex1 .hold) (silent 1#32)) 0x06#7 .holdHold
      (fun t => t.st = .hold) = true := by decide

/-- V-S7's `RD 5`: the front buffer after program P1 step 19 holds 0x60 at offset 5. -/
theorem test_V_S7 :
    seen (given { at0 Params.ex1 .render with front := 1#1, mem := [(5, 1#8), (65541, 0x60#8)] }
      { silent 0#32 with rdAddr := 5#16 }) 0x05#7 .renderHold
      (fun t => t.out.rdData = some 0x60#8) = true := by decide

theorem test_V_S8 : exec (.frontRead 12#16) (at0 Params.ex1 .idle) = .refused .readOutOfRange := rfl

/-! ### Reset and the reserved state (V-R) -/

theorem test_V_R2 :
    seen (given { at0 Params.ex1 .payload with cnt := 5#16, front := 1#1, hasFrame := true, lenR := 12#16 }
      { giving 0x99#8 with rst := true, nowMs := 7#32 }) 0x4B#7 .reset
      (fun t => t.st = .idle ∧ t.cnt = 0#16 ∧ t.lenR = 0#16 ∧ t.front = 0#1 ∧ t.hasFrame = false ∧ t.rxQueue = [0x99#8]) = true := by decide

theorem test_V_R4_fault : step (given (at0 Params.ex1 .reserved) (silent 0#32)) = .fault .reservedState := rfl

theorem test_V_R4_cleared :
    seen (given (at0 Params.ex1 .reserved) { silent 0#32 with rst := true }) 0x47#7 .reset
      (fun t => t.st = .idle) = true := by decide

/-! ### Witnesses: encoding -/

/-- One selector for each clause of the statement, at the ends of the clause's ranges. -/
theorem witness_SelectorBitsPickTheRow :
    (let x : Selector := ⟨0x7F#7, 0#8, 0#2, 0#16, 0#16⟩; x.rst = true) ∧
    ((⟨0x38#7, 0xAA#8, 0#2, 0#16, 0#16⟩ : Selector).rst = false ∧
      (⟨0x38#7, 0xAA#8, 0#2, 0#16, 0#16⟩ : Selector).stField = 0#3 ∧
      (⟨0x38#7, 0xAA#8, 0#2, 0#16, 0#16⟩ : Selector).rxv = true) ∧
    ((⟨0x30#7, 0#8, 0#2, 0#16, 0#16⟩ : Selector).stField = 0#3 ∧
      (⟨0x30#7, 0#8, 0#2, 0#16, 0#16⟩ : Selector).rxv = false) ∧
    ((⟨0x09#7, 0x55#8, 0#2, 0#16, 0#16⟩ : Selector).stField = 1#3 ∧
      (⟨0x09#7, 0x55#8, 0#2, 0#16, 0#16⟩ : Selector).rxv = true) ∧
    ((⟨0x01#7, 0#8, 0#2, 0#16, 0#16⟩ : Selector).stField = 1#3 ∧
      (⟨0x01#7, 0#8, 0#2, 0#16, 0#16⟩ : Selector).rxv = false) ∧
    ((⟨0x0A#7, 0#8, 2#2, 0#16, 0#16⟩ : Selector).stField = 2#3 ∧
      (⟨0x0A#7, 0#8, 2#2, 0#16, 0#16⟩ : Selector).hcnt ≠ 3#2 ∧
      (⟨0x0A#7, 0#8, 3#2, 4096#16, 0#16⟩ : Selector).hcnt = 3#2) ∧
    ((⟨0x12#7, 0#8, 2#2, 0#16, 0#16⟩ : Selector).rxv = false ∧
      (⟨0x0B#7, 0#8, 0#2, 0#16, 11#16⟩ : Selector).stField = 3#3 ∧
      (⟨0x0C#7, 0#8, 0#2, 0#16, 1#16⟩ : Selector).stField = 4#3) ∧
    ((⟨0x25#7, 0#8, 0#2, 0#16, 0#16⟩ : Selector).stField = 5#3 ∧
      (⟨0x26#7, 0#8, 0#2, 0#16, 0#16⟩ : Selector).stField = 6#3 ∧
      (⟨0x07#7, 0#8, 0#2, 0#16, 0#16⟩ : Selector).stField = 7#3) := by decide

theorem witness_SelectorHasExactlyOneRow :
    (let x : Selector := ⟨0x08#7, 0xAA#8, 0#2, 0#16, 0#16⟩
     Instr.idleM0 0xAA#8 ∈ selInstrs x.rxData ∧
     rowOf (.idleM0 0xAA#8) = some ⟨"IDLE_M0", 0x08#7, 0x4F#7, .isMarker0⟩ ∧
     Row.applies Params.ex1 x ⟨"IDLE_M0", 0x08#7, 0x4F#7, .isMarker0⟩ = true) := by decide

theorem witness_DecodeOfEncodeIsTheInstruction :
    Instr.wf Params.ex3 (.frontRead 5999#16) = true ∧ Instr.wf Params.ex1 (.hdrTooLarge 0xFF#8) = true := by decide

/-! ### Witnesses: the step -/

theorem witness_SamplingTakesTheOutsideInputs :
    ∃ (s : State) (x : Stimulus) (xs : List Stimulus), s.script = x :: xs :=
  ⟨given (at0 p3 .idle) (giving 1#8), giving 1#8, [], rfl⟩

theorem witness_StepRunsSelectedRowBesideThePort :
    (∃ s : State, s.cfg.ok = true ∧ ∃ t, exec (decodeSel s.cfg s.sample.selector) s.sample = .next t) ∧
    (∃ s : State, s.cfg.ok = true ∧ ∃ f, exec (decodeSel s.cfg s.sample.selector) s.sample = .fault f) :=
  ⟨⟨given (at0 p3 .idle) (giving 1#8), by decide, _, rfl⟩, ⟨given (at0 p3 .reserved) (giving 1#8), by decide, _, rfl⟩⟩

/-- The ends of R7's ranges: 1 and 21845 pixels and a timeout of 1 are in, 0 and 21846 pixels and a timeout of 0 out. -/
theorem witness_ParametersOutsideTheConstraintsAreRefused :
    p3.ok = true ∧ Params.ok { Params.ex1 with n0 := 0, n1 := 21845, timeoutMs := 1#32 } = true ∧
    Params.ok { Params.ex1 with n0 := 0, n1 := 0 } = false ∧
    Params.ok { Params.ex1 with n0 := 1, n1 := 21845 } = false ∧
    Params.ok { Params.ex1 with timeoutMs := 0#32 } = false := by decide

/-- A reset state. -/
theorem isReset_resetWith (p : Params) (h : p.ok = true) (q : List Byte) (xs : List Stimulus) :
    IsReset { State.resetWith p with rxQueue := q, script := xs } :=
  ⟨h, rfl, rfl, rfl, rfl, rfl, rfl, rfl, rfl, rfl⟩

/-- A small state that meets the invariant, in PAYLOAD with one byte received. -/
def inPayload : State := { at0 p3 .payload with cnt := 1#16, mem := [(65536, 7#8)] }

theorem inPayload_inv : StateInv inPayload where
  configured := by decide
  legal := by decide
  payloadCount := by decide
  discardCount := by decide
  discardDeclared := by decide
  memoryWf := by decide
  inSpace := by
    intro c hc
    exact ⟨1#1, 0#16, by simpa [inPayload, bufAddr] using congrArg Prod.fst (List.mem_singleton.mp hc), by decide⟩
  receivedWritten := by
    intro _ off h
    have h0 : off = 0#16 := BitVec.eq_of_toNat_eq (by
      have h1 : off.toNat < 1 := h
      simp; omega)
    subst h0
    decide
  frontWritten := fun h => absurd h (by decide)

theorem witness_InvariantStatesNeverStop : ∃ s : State, StateInv s := ⟨inPayload, inPayload_inv⟩

theorem witness_StepKeepsTheInvariant : ∃ s t : State, StateInv s ∧ step s = .next t :=
  ⟨{ inPayload with script := [giving 1#8] },
    _, ⟨inPayload_inv.1, inPayload_inv.2, inPayload_inv.3, inPayload_inv.4, inPayload_inv.5, inPayload_inv.6,
      inPayload_inv.7, inPayload_inv.8, inPayload_inv.9⟩, rfl⟩

theorem witness_ByteLineIsConsumedOrIllFormed :
    (∃ s : State, StateInv s ∧ s.rxQueue = [] ∧ s.st ≠ .render ∧ s.st ≠ .hold) ∧
    ((at0 p3 .render).rxQueue = [] ∧ (at0 p3 .render).st = .render ∧ (at0 p3 .hold).st = .hold) :=
  ⟨⟨inPayload, inPayload_inv, rfl, by decide, by decide⟩, by decide⟩

/-! ### Witnesses: the rows, on states whose inputs are sampled -/

/-- A state whose sampled inputs are an offered byte or none, `tick` and a time. -/
def sampled (p : Params) (st : SyncState) (rx : Option Byte) (tick : Bool) (now : Millis) : State :=
  { at0 p st with
    pins := { rst := false, tick := tick, rx := rx, nowMs := now, rdAddr := 0#16 }
    rxQueue := rx.toList }

theorem witness_IdleRows :
    (∃ (s : State) (b : Byte), s.st = .idle ∧ s.pins.rst = false ∧ s.pins.rx = some b ∧ b = s.cfg.marker0) ∧
    (∃ (s : State) (b : Byte), s.st = .idle ∧ s.pins.rst = false ∧ s.pins.rx = some b ∧ b ≠ s.cfg.marker0) ∧
    (∃ s : State, s.st = .idle ∧ s.pins.rst = false ∧ s.pins.rx = none) :=
  ⟨⟨sampled Params.ex1 .idle (some 0xAA#8) false 7#32, 0xAA#8, by decide⟩,
   ⟨sampled Params.ex1 .idle (some 0x55#8) true 0#32, 0x55#8, by decide⟩,
   ⟨sampled Params.ex1 .idle none false 5000#32, by decide⟩⟩

theorem witness_SecondMarkerRows :
    (∃ (s : State) (b : Byte), s.st = .gotM0 ∧ s.pins.rst = false ∧ s.pins.rx = some b ∧ b = s.cfg.marker1) ∧
    (∃ (s : State) (b : Byte), s.st = .gotM0 ∧ s.pins.rst = false ∧ s.pins.rx = some b ∧ b ≠ s.cfg.marker1) ∧
    (∃ s : State, s.st = .gotM0 ∧ s.pins.rst = false ∧ s.pins.rx = none) :=
  ⟨⟨sampled Params.ex1 .gotM0 (some 0x55#8) false 7#32, 0x55#8, by decide⟩,
   ⟨sampled Params.ex1 .gotM0 (some 0xAA#8) true 0#32, 0xAA#8, by decide⟩,
   ⟨sampled Params.ex1 .gotM0 none false 5000#32, by decide⟩⟩

theorem witness_MetadataByteRow :
    (∃ (s : State) (b : Byte), s.st = .hdr ∧ s.pins.rst = false ∧ s.pins.rx = some b ∧ s.hcnt ≠ 3#2 ∧ s.hcnt = 0#2) ∧
    (∃ (s : State) (b : Byte), s.st = .hdr ∧ s.pins.rst = false ∧ s.pins.rx = some b ∧ s.hcnt ≠ 3#2 ∧ s.hcnt = 2#2) :=
  ⟨⟨sampled Params.ex1 .hdr (some 0x0C#8) false 0#32, 0x0C#8, by decide⟩,
   ⟨{ sampled Params.ex1 .hdr (some 0x01#8) false 0#32 with hcnt := 2#2 }, 0x01#8, by decide⟩⟩

/-- A state at the last metadata byte with a declared length. -/
def lastMeta (p : Params) (len : Half) : State :=
  { sampled p .hdr (some 0#8) false 0#32 with hcnt := 3#2, lenR := len }

theorem witness_LengthVerdictRows :
    ((lastMeta Params.ex1 12#16).st = .hdr ∧ (lastMeta Params.ex1 12#16).pins.rst = false ∧
      (lastMeta Params.ex1 12#16).pins.rx = some 0#8 ∧ (lastMeta Params.ex1 12#16).hcnt = 3#2 ∧
      (lastMeta Params.ex1 12#16).lenR.toNat = (lastMeta Params.ex1 12#16).cfg.frameLen) ∧
    ((lastMeta Params.ex3 6000#16).lenR.toNat = (lastMeta Params.ex3 6000#16).cfg.frameLen) ∧
    ((lastMeta Params.ex1 4096#16).lenR.toNat ≠ (lastMeta Params.ex1 4096#16).cfg.frameLen ∧
      (lastMeta Params.ex1 4096#16).lenR.toNat ≤ (lastMeta Params.ex1 4096#16).cfg.discardCeil.toNat ∧
      (lastMeta Params.ex1 4096#16).lenR ≠ 0#16) ∧
    ((lastMeta Params.ex1 0#16).lenR.toNat ≠ (lastMeta Params.ex1 0#16).cfg.frameLen ∧
      (lastMeta Params.ex1 0#16).lenR = 0#16) ∧
    ((lastMeta Params.ex1 4097#16).lenR.toNat ≠ (lastMeta Params.ex1 4097#16).cfg.frameLen ∧
      (lastMeta Params.ex1 4097#16).cfg.discardCeil.toNat < (lastMeta Params.ex1 4097#16).lenR.toNat) := by decide

theorem witness_MetadataSilenceRows :
    (∃ s : State, s.st = .hdr ∧ s.pins.rst = false ∧ s.pins.rx = none ∧
      s.cfg.timeoutMs.toNat ≤ (s.pins.nowMs - s.tLast).toNat) ∧
    (∃ s : State, s.st = .hdr ∧ s.pins.rst = false ∧ s.pins.rx = none ∧
      (s.pins.nowMs - s.tLast).toNat < s.cfg.timeoutMs.toNat) :=
  ⟨⟨sampled Params.ex1 .hdr none false 100#32, by decide⟩, ⟨sampled Params.ex1 .hdr none true 99#32, by decide⟩⟩

theorem witness_PayloadByteRow :
    ∃ (s : State) (b : Byte), s.st = .payload ∧ s.pins.rst = false ∧ s.pins.rx = some b ∧
      s.cnt.toNat < s.cfg.frameLen - 1 ∧ s.cnt.toNat = s.cfg.frameLen - 2 :=
  ⟨{ sampled Params.ex1 .payload (some 7#8) false 0#32 with cnt := 10#16 }, 7#8, by decide⟩

theorem witness_PayloadCommitRow :
    ∃ (s : State) (b : Byte), s.st = .payload ∧ s.pins.rst = false ∧ s.pins.rx = some b ∧
      1 ≤ s.cfg.frameLen ∧ s.cnt.toNat = s.cfg.frameLen - 1 :=
  ⟨{ sampled Params.ex1 .payload (some 7#8) false 0#32 with cnt := 11#16 }, 7#8, by decide⟩

theorem witness_PayloadSilenceRows :
    (∃ s : State, s.st = .payload ∧ s.pins.rst = false ∧ s.pins.rx = none ∧
      s.cfg.timeoutMs.toNat ≤ (s.pins.nowMs - s.tLast).toNat) ∧
    (∃ s : State, s.st = .payload ∧ s.pins.rst = false ∧ s.pins.rx = none ∧
      (s.pins.nowMs - s.tLast).toNat < s.cfg.timeoutMs.toNat) :=
  ⟨⟨{ sampled Params.ex1 .payload none false 0x24#32 with tLast := 0xFFFFFFC0#32 }, by decide⟩,
   ⟨{ sampled Params.ex1 .payload none false 0x23#32 with tLast := 0xFFFFFFC0#32 }, by decide⟩⟩

theorem witness_PayloadByteOutsideTheBufferFaults : ∃ s : State, s.cfg.frameLen ≤ s.cnt.toNat :=
  ⟨{ at0 Params.ex1 .payload with cnt := 12#16 }, by decide⟩

theorem witness_DiscardRows :
    (∃ (s : State) (b : Byte), s.st = .discard ∧ s.pins.rst = false ∧ s.pins.rx = some b ∧ 1 < s.cnt.toNat) ∧
    (∃ (s : State) (b : Byte), s.st = .discard ∧ s.pins.rst = false ∧ s.pins.rx = some b ∧ s.cnt = 1#16) ∧
    (∃ s : State, s.st = .discard ∧ s.pins.rst = false ∧ s.pins.rx = none ∧
      s.cfg.timeoutMs.toNat ≤ (s.pins.nowMs - s.tLast).toNat) ∧
    (∃ s : State, s.st = .discard ∧ s.pins.rst = false ∧ s.pins.rx = none ∧
      (s.pins.nowMs - s.tLast).toNat < s.cfg.timeoutMs.toNat) :=
  ⟨⟨{ sampled Params.ex1 .discard (some 7#8) false 0#32 with cnt := 2#16 }, 7#8, by decide⟩,
   ⟨{ sampled Params.ex1 .discard (some 7#8) false 0#32 with cnt := 1#16 }, 7#8, by decide⟩,
   ⟨{ sampled Params.ex1 .discard none false 100#32 with cnt := 2#16 }, by decide⟩,
   ⟨{ sampled Params.ex1 .discard none false 99#32 with cnt := 2#16 }, by decide⟩⟩

theorem witness_DiscardCountZeroWraps :
    ∃ (s : State) (b : Byte), s.st = .discard ∧ s.pins.rst = false ∧ s.pins.rx = some b ∧ s.cnt = 0#16 :=
  ⟨sampled Params.ex1 .discard (some 7#8) false 0#32, 7#8, by decide⟩

theorem witness_WaitStateRows :
    ((sampled Params.ex1 .render none true 0#32).pins.rst = false ∧ (sampled Params.ex1 .render none true 0#32).st = .render ∧
      (sampled Params.ex1 .render none true 0#32).pins.tick = true) ∧
    ((sampled Params.ex1 .render (some 1#8) false 0#32).st = .render ∧
      (sampled Params.ex1 .render (some 1#8) false 0#32).pins.tick = false) ∧
    ((sampled Params.ex1 .hold (some 1#8) true 0#32).st = .hold ∧
      (sampled Params.ex1 .hold (some 1#8) true 0#32).pins.tick = true) ∧
    ((sampled Params.ex1 .hold none false 0#32).st = .hold ∧
      (sampled Params.ex1 .hold none false 0#32).pins.tick = false) := by decide

theorem witness_FrontReadRow :
    ((11#16 : Half).toNat < (at0 Params.ex1 .idle).cfg.frameLen ∧
      (at0 Params.ex1 .idle).cfg.frameLen ≤ (12#16 : Half).toNat) ∧
    (∃ s t : State, step s = .next t ∧ s.nextStimulus.rdAddr.toNat < s.cfg.frameLen) :=
  ⟨by decide, given (at0 p3 .idle) { silent 0#32 with rdAddr := 2#16 }, _, rfl, by decide⟩

theorem witness_ResetRow : ∃ s : State, s.pins.rst = true :=
  ⟨{ at0 Params.ex1 .payload with pins := { rst := true, tick := true, rx := some 1#8, nowMs := 9#32, rdAddr := 0#16 } },
    by decide⟩

theorem witness_ReservedStateFaultsUntilReset :
    ((sampled Params.ex1 .reserved (some 1#8) true 0#32).st = .reserved ∧
      (sampled Params.ex1 .reserved (some 1#8) true 0#32).pins.rst = false) ∧
    ((given (at0 Params.ex1 .reserved) (silent 0#32)).cfg.ok = true ∧
      (given (at0 Params.ex1 .reserved) (silent 0#32)).st = .reserved ∧
      (given (at0 Params.ex1 .reserved) (silent 0#32)).nextStimulus.rst = false) ∧
    (given (at0 Params.ex1 .reserved) { silent 0#32 with rst := true }).nextStimulus.rst = true := by decide

/-! ### Witnesses: frames -/

theorem witness_RowsWithoutStoreKeepEveryByte :
    ∃ (i : Instr) (s t : State), writesBuffer i = false ∧ exec i s = .next t :=
  ⟨.hdrMismatch 0#8, lastMeta Params.ex1 3#16, _, rfl, rfl⟩

theorem witness_PayloadRowsStoreOneByte :
    (∃ (b : Byte) (s t : State), exec (.payByte b) s = .next t) ∧
    (∃ (b : Byte) (s t : State), exec (.payCommit b) s = .next t) :=
  ⟨⟨7#8, at0 Params.ex1 .payload, _, rfl⟩, ⟨7#8, { at0 Params.ex1 .payload with cnt := 11#16 }, _, rfl⟩⟩

theorem witness_RowsWriteOnlyTheirRegisters :
    ∃ (i : Instr) (s t : State), exec i s = .next t ∧ writesSt i = false ∧ writesLen i = false ∧ takesByte i = true :=
  ⟨.discByte 1#8, { at0 Params.ex1 .discard with cnt := 2#16 }, _, rfl, rfl, rfl, rfl⟩

/-! ### Witnesses: every step -/

theorem witness_TakeConsumesOneByte :
    (∃ s t : State, step s = .next t ∧ s.sample.take = true) ∧
    (∃ s t : State, step s = .next t ∧ s.sample.take = false ∧ s.sample.pins.rst = false) :=
  ⟨⟨given (at0 p3 .idle) (giving 1#8), _, rfl, rfl⟩, ⟨given (at0 p3 .render) (giving 1#8), _, rfl, rfl, rfl⟩⟩

theorem witness_OfferedByteStaysUntilReady :
    (∃ (s t : State) (b : Byte), step s = .next t ∧ s.sample.pins.rx = some b ∧ s.sample.rxReady = true) ∧
    (∃ (s t : State) (b : Byte), step s = .next t ∧ s.sample.pins.rx = some b ∧ s.sample.rxReady = false) :=
  ⟨⟨given (at0 p3 .discard) (giving 1#8), _, 1#8, rfl, rfl, rfl⟩,
   ⟨given (at0 p3 .render) (giving 1#8), _, 1#8, rfl, rfl, rfl⟩⟩

theorem witness_TimeoutFiresExactlyOnSilence :
    (∃ s t : State, step s = .next t ∧ t.out.ev = .transportTimeout) ∧
    (∃ s t : State, step s = .next t ∧ t.out.ev ≠ .transportTimeout) ∧
    (∃ (s t : State) (b : Byte), step s = .next t ∧ (s.st = .hdr ∨ s.st = .payload ∨ s.st = .discard) ∧
      s.sample.pins.rst = false ∧ s.sample.pins.rx = some b ∧ s.sample.tmo = true) :=
  ⟨⟨given (at0 p3 .hdr) (silent 100#32), _, rfl, rfl⟩, ⟨given (at0 p3 .hdr) (silent 99#32), _, rfl, by decide⟩,
   ⟨given (at0 p3 .hdr) { giving 1#8 with nowMs := 100#32 }, _, 1#8, rfl, .inl rfl, rfl, rfl, rfl⟩⟩

/-- The next byte of PAYLOAD is the last one. -/
def lastByte : State := { at0 p3 .payload with cnt := 2#16, script := [giving 9#8] }

theorem witness_EventsComeFromTheirRows :
    (∃ s t : State, step s = .next t ∧ t.evOut = 1#3) ∧
    (∃ s t : State, step s = .next t ∧ t.evOut = 3#3) ∧
    (∃ s t : State, step s = .next t ∧ t.evOut = 4#3) :=
  ⟨⟨lastByte, _, rfl, rfl⟩,
   ⟨given { at0 p3 .hdr with hcnt := 3#2, lenR := 4#16 } (giving 0#8), _, rfl, rfl⟩,
   ⟨given { at0 p3 .hdr with hcnt := 3#2, lenR := 4097#16 } (giving 0#8), _, rfl, rfl⟩⟩

theorem witness_OnlyTheCommitMovesTheFront :
    (∃ s t : State, step s = .next t ∧ ¬ SameRoles s t ∧ s.sample.pins.rst = false) ∧
    (∃ s t : State, step s = .next t ∧ t.bufByte 1#1 0#16 ≠ s.bufByte 1#1 0#16 ∧ s.sample.pins.rst = false) :=
  ⟨⟨lastByte, _, rfl, fun h => absurd h.1 (by decide), rfl⟩,
   ⟨given { at0 p3 .payload with mem := [(65536, 1#8)] } (giving 2#8), _, rfl, by decide, rfl⟩⟩

theorem witness_ReadPortShowsTheStateBeforeTheStep :
    (∃ s t : State, step s = .next t ∧ s.nextStimulus.rdAddr.toNat < s.cfg.frameLen) ∧
    (∃ s t : State, step s = .next t ∧ s.cfg.frameLen ≤ s.nextStimulus.rdAddr.toNat) :=
  ⟨⟨given (at0 p3 .idle) { silent 0#32 with rdAddr := 2#16 }, _, rfl, by decide⟩,
   ⟨given (at0 p3 .idle) { silent 0#32 with rdAddr := 3#16 }, _, rfl, by decide⟩⟩

theorem witness_TickActsOnlyInTheWaitStates :
    ∃ (s : State) (x : Stimulus) (xs : List Stimulus) (t : State),
      s.st ≠ .render ∧ s.st ≠ .hold ∧ s.script = x :: xs ∧ step s = .next t :=
  ⟨lastByte, giving 9#8, [], _, by decide, by decide, rfl, rfl⟩

theorem witness_ReadAddressHasNoSideEffect :
    ∃ (s : State) (x : Stimulus) (xs : List Stimulus) (t : State), s.script = x :: xs ∧ step s = .next t :=
  ⟨lastByte, giving 9#8, [], _, rfl, rfl⟩

theorem witness_BackBufferIsInvisible :
    ∃ (s : State) (m : List Host.Cell) (t : State),
      (∀ off : Half, State.bufByte { s with mem := m } s.front off = s.bufByte s.front off) ∧
      m ≠ s.mem ∧ step s = .next t :=
  ⟨given (at0 p3 .payload) (giving 1#8), [(65536, 5#8)], _,
    fun off => bufByte_of_write_other (given (at0 p3 .payload) (giving 1#8))
      (given { at0 p3 .payload with mem := [(65536, 5#8)] } (giving 1#8)) 1#1 0#16 5#8 rfl rfl 0#1 off
      (by intro h; exact absurd (Prod.mk.inj h).1 (by decide)), by decide, rfl⟩

theorem witness_ErrorsKeepTheShownFrame :
    ∃ s t : State, step s = .next t ∧
      (t.out.ev = .transportTimeout ∨ t.out.ev = .lengthMismatch ∨ t.out.ev = .lengthTooLarge) :=
  ⟨given (at0 p3 .payload) (silent 100#32), _, rfl, .inl rfl⟩

theorem witness_OnlyTimeoutLastByteOrResetEndsARead :
    (∃ s t : State, step s = .next t ∧ (s.st = .hdr ∨ s.st = .payload ∨ s.st = .discard) ∧ t.st ≠ s.st ∧
      s.sample.pins.rst = true) ∧
    (∃ s t : State, step s = .next t ∧ (s.st = .hdr ∨ s.st = .payload ∨ s.st = .discard) ∧ t.st ≠ s.st ∧
      s.sample.pins.rx = none) ∧
    (∃ s t : State, step s = .next t ∧ (s.st = .hdr ∨ s.st = .payload ∨ s.st = .discard) ∧ t.st ≠ s.st ∧
      s.sample.pins.rx.isSome = true) :=
  ⟨⟨given (at0 p3 .hdr) { silent 0#32 with rst := true }, _, rfl, .inl rfl, by decide, rfl⟩,
   ⟨given { at0 p3 .discard with cnt := 1#16 } (silent 100#32), _, rfl, .inr (.inr rfl), by decide, rfl⟩,
   ⟨lastByte, _, rfl, .inr (.inl rfl), by decide, rfl⟩⟩

theorem witness_ElapsedRisesByAtMostOne :
    ∃ s t : State, step s = .next t ∧ s.sample.take = false ∧ s.sample.pins.rst = false ∧ TimeDuty s.sample t.sample :=
  ⟨{ at0 p3 .gotM0 with script := [silent 0xFFFFFFFF#32, silent 0#32] }, _, rfl, rfl, rfl, .inr rfl⟩

theorem witness_StepKeepsMemoryCanonical : ∃ s t : State, Memory.wf s.mem = true ∧ step s = .next t :=
  ⟨{ lastByte with mem := [(0, 1#8), (65536, 2#8)] }, _, by decide, rfl⟩

/-! ### Witnesses: runs -/

/-- From reset under `p3`, a byte source that holds some bytes, and quiet inputs. -/
def fed (q : List Byte) (n : Nat) : State := { State.resetWith p3 with rxQueue := q, script := calm n }

theorem fed_reachable (q : List Byte) (n : Nat) : Reachable (fed q n) :=
  .reset _ (isReset_resetWith p3 (by decide) q (calm n))

theorem noReset_of_all {s : State} {n : Nat} (h : ∀ i, i < n → (s.stimulusAt i).rst = false) : s.noReset n := h

theorem witness_InvariantHoldsAtReset : ∃ s : State, IsReset s :=
  ⟨_, isReset_resetWith p3 (by decide) [] []⟩

theorem witness_ReachableStatesRunOn :
    (∃ s, Reachable s ∧ s.st = .payload) ∧ (∃ s, Reachable s ∧ s.st = .discard) :=
  ⟨⟨_, (fed_reachable [0xAA#8, 0x55#8, 3#8, 0#8, 0#8, 0#8] 6).run (k := 6) rfl, rfl⟩,
   ⟨_, (fed_reachable [0xAA#8, 0x55#8, 4#8, 0#8, 0#8, 0#8] 6).run (k := 6) rfl, rfl⟩⟩

theorem witness_ReachableStatesRunOn_frame : ∃ s, Reachable s ∧ s.hasFrame = true :=
  ⟨_, (fed_reachable [0xAA#8, 0x55#8, 3#8, 0#8, 0#8, 0#8, 1#8, 2#8, 3#8] 9).run (k := 9) rfl, rfl⟩

/-- Also what refutes the clause: declared length 4, FRAME_LEN 3, one byte discarded (log 21). -/
theorem witness_DiscardCountIsNeverTheFrameLength : ∃ s, Reachable s ∧ s.st = .discard ∧ s.cnt = 3#16 :=
  ⟨_, (fed_reachable [0xAA#8, 0x55#8, 4#8, 0#8, 0#8, 0#8, 0#8] 7).run (k := 7) rfl, rfl, rfl⟩

/-- Declared lengths at the ends of the range, 1 and the ceiling 4096, and 4, one above FRAME_LEN. -/
theorem witness_DiscardStartsAtALengthOtherThanTheFrameLength :
    (∀ len ∈ [1#16, 4#16, 4096#16],
      let s := given { at0 p3 .hdr with hcnt := 3#2, lenR := len } (giving 0#8)
      s.st ≠ .discard ∧ ∃ t, step s = .next t ∧ t.st = .discard) ∧
    (∃ s, Reachable s ∧ s.st = .discard ∧ s.cnt.toNat = s.cfg.frameLen) := by
  refine ⟨?_, _, (fed_reachable [0xAA#8, 0x55#8, 4#8, 0#8, 0#8, 0#8, 0#8] 7).run (k := 7) rfl, rfl, rfl⟩
  simp only [List.forall_mem_cons]
  exact ⟨⟨by decide, _, rfl, rfl⟩, ⟨by decide, _, rfl, rfl⟩, ⟨by decide, _, rfl, rfl⟩, by simp⟩

theorem witness_HasFrameMeansCommitSinceReset :
    (∃ (k : Nat) (s t : State), s.hasFrame = false ∧ runSteps k s = .next t ∧ t.hasFrame = true) ∧
    (∃ (k : Nat) (s t : State), s.hasFrame = false ∧ runSteps k s = .next t ∧ t.hasFrame = false) :=
  ⟨⟨1, lastByte, _, rfl, rfl, rfl⟩, ⟨2, { lastByte with script := [giving 9#8, { silent 0#32 with rst := true }] }, _, rfl, rfl, rfl⟩⟩

/-- The next byte commits, and the byte source holds one more frame. -/
def twoCommits : State :=
  { at0 p3 .payload with
    cnt := 2#16
    rxQueue := [9#8, 0xAA#8, 0x55#8, 3#8, 0#8, 0#8, 0#8, 1#8, 2#8, 3#8]
    script := [silent 0#32, { silent 0#32 with tick := true }] ++ calm 9 }

theorem witness_CommitsAreSeparatedByATick :
    ∃ (k : Nat) (s u t : State), step s = .next u ∧ u.out.ev = .frameReady ∧
      runSteps (k + 1) u = .next t ∧ t.out.ev = .frameReady :=
  ⟨9, twoCommits, _, _, rfl, rfl, rfl, rfl⟩

theorem witness_ShownFrameIsStable :
    ∃ (k : Nat) (s t : State), runSteps k s = .next t ∧ s.noReset k ∧
      ∀ j < k, ∀ u, runSteps (j + 1) s = .next u → u.out.ev ≠ .frameReady :=
  ⟨1, given (at0 p3 .payload) (giving 1#8), _, rfl, noReset_of_all (by decide), by
    intro j hj u hu
    obtain rfl : j = 0 := by omega
    cases hu
    decide⟩

theorem witness_WaitingChangesNothing :
    (∃ (k : Nat) (s : State), s.cfg.ok = true ∧ s.noReset k ∧
      (s.st = .idle ∨ s.st = .gotM0) ∧ s.rxQueue = [] ∧ ∀ i < k, (s.stimulusAt i).arrive = []) ∧
    (∃ (k : Nat) (s : State), s.cfg.ok = true ∧ s.noReset k ∧
      (s.st = .render ∨ s.st = .hold) ∧ ∀ i < k, (s.stimulusAt i).tick = false) :=
  ⟨⟨2, { at0 p3 .gotM0 with script := calm 2 }, by decide, noReset_of_all (by decide), .inr rfl, rfl, by decide⟩,
   ⟨2, { at0 p3 .hold with script := [giving 1#8, giving 2#8] }, by decide, noReset_of_all (by decide), .inr rfl,
     by decide⟩⟩

theorem witness_AcceptedFrameIsShown :
    ∃ (s : State) (len seq : Half) (payload rest : List Byte),
      s.cfg.ok = true ∧ s.st = .idle ∧ len.toNat = s.cfg.frameLen ∧ payload.length = s.cfg.frameLen ∧
      s.rxQueue = wireFrame s.cfg len seq payload ++ rest ∧ s.noReset (6 + s.cfg.frameLen) :=
  ⟨fed [0xAA#8, 0x55#8, 3#8, 0#8, 0x34#8, 0x12#8, 1#8, 2#8, 3#8, 4#8] 9, 3#16, 0x1234#16, [1#8, 2#8, 3#8], [4#8],
    by decide, rfl, by decide, by decide, by decide, noReset_of_all (by decide)⟩

/-- A frame of which the first byte is there, the others come after a silence in GOT_M0 that outlasts the timeout. -/
def paced : State :=
  { at0 p3 .idle with
    rxQueue := [0xAA#8]
    script := [silent 0#32, silent 500#32,
      { silent 0#32 with arrive := [0x55#8, 3#8, 0#8, 7#8, 0#8, 1#8, 2#8, 3#8, 4#8], tick := true }] ++ calm 7 }

theorem witness_PacedFrameIsShown :
    ∃ (k : Nat) (s u t : State) (len seq : Half) (payload rest : List Byte),
      s.cfg.ok = true ∧ s.st = .idle ∧ len.toNat = s.cfg.frameLen ∧ payload.length = s.cfg.frameLen ∧
      runSteps k s = .next u ∧ step u = .next t ∧ s.noReset (k + 1) ∧
      s.rxQueue ++ s.arrivals (k + 1) = wireFrame s.cfg len seq payload ++ rest ∧
      (∀ j ≤ k, ∀ v, runSteps j s = .next v → SenderDuty v.sample) ∧
      u.sample.take = true ∧ t.rxQueue = rest :=
  ⟨9, paced, _, _, 3#16, 7#16, [1#8, 2#8, 3#8], [4#8], by decide, rfl, by decide, by decide, rfl, rfl,
    noReset_of_all (by decide), by decide, by
      intro j hj v hv h
      have hc : j = 0 ∨ j = 1 ∨ j = 2 ∨ j = 3 ∨ j = 4 ∨ j = 5 ∨ j = 6 ∨ j = 7 ∨ j = 8 ∨ j = 9 := by omega
      obtain ⟨ht, hx, _⟩ := h
      rcases hc with rfl | rfl | rfl | rfl | rfl | rfl | rfl | rfl | rfl | rfl <;> cases hv <;>
        first | exact absurd ht (by decide) | exact absurd hx (by decide), rfl, rfl⟩

theorem witness_RenderWindowReadsOnePayload :
    ∃ (k : Nat) (s u t : State), runSteps k s = .next u ∧ step u = .next t ∧
      (∀ j ≤ k, ∀ v, runSteps j s = .next v → RenderDuty v.sample) ∧ ReadDuty u.sample :=
  ⟨1, { at0 p3 .render with hasFrame := true, script := [silent 0#32, { silent 0#32 with rdAddr := 2#16 }] }, _, _, rfl,
    rfl, by
      intro j hj v hv
      have hc : j = 0 ∨ j = 1 := by omega
      rcases hc with rfl | rfl <;> cases hv <;> exact ⟨rfl, rfl⟩, by
      show (2#16 : Half).toNat < 3
      decide⟩

theorem witness_MismatchedFrameIsDiscardedAndTheNextAccepted :
    (∃ (s : State) (bad seq₁ len seq₂ : Half) (junk payload rest : List Byte),
      s.cfg.ok = true ∧ s.st = .idle ∧ bad.toNat ≠ s.cfg.frameLen ∧ bad.toNat ≤ s.cfg.discardCeil.toNat ∧
      junk.length = bad.toNat ∧ len.toNat = s.cfg.frameLen ∧ payload.length = s.cfg.frameLen ∧
      s.rxQueue = wireFrame s.cfg bad seq₁ junk ++ (wireFrame s.cfg len seq₂ payload ++ rest) ∧
      s.noReset (6 + bad.toNat + (6 + s.cfg.frameLen)) ∧ bad = 0#16) ∧
    (∃ (s : State) (bad seq₁ len seq₂ : Half) (junk payload rest : List Byte),
      s.cfg.ok = true ∧ s.st = .idle ∧ bad.toNat ≠ s.cfg.frameLen ∧ bad.toNat ≤ s.cfg.discardCeil.toNat ∧
      junk.length = bad.toNat ∧ len.toNat = s.cfg.frameLen ∧ payload.length = s.cfg.frameLen ∧
      s.rxQueue = wireFrame s.cfg bad seq₁ junk ++ (wireFrame s.cfg len seq₂ payload ++ rest) ∧
      s.noReset (6 + bad.toNat + (6 + s.cfg.frameLen)) ∧ bad = 2#16) :=
  ⟨⟨fed (wireFrame p3 0#16 7#16 [] ++ wireFrame p3 3#16 8#16 [1#8, 2#8, 3#8]) 15, 0#16, 7#16, 3#16, 8#16, [],
      [1#8, 2#8, 3#8], [], by decide, rfl, by decide, by decide, by decide, by decide, by decide, by decide,
      noReset_of_all (by decide), rfl⟩,
   ⟨fed (wireFrame p3 2#16 7#16 [0xAA#8, 0x55#8] ++ wireFrame p3 3#16 8#16 [1#8, 2#8, 3#8]) 17, 2#16, 7#16, 3#16,
      8#16, [0xAA#8, 0x55#8], [1#8, 2#8, 3#8], [], by decide, rfl, by decide, by decide, by decide, by decide,
      by decide, by decide, noReset_of_all (by decide), rfl⟩⟩

theorem witness_TooLargeHeaderHoldsUntilTick :
    ∃ (k : Nat) (s : State) (len seq : Half) (rest : List Byte),
      s.cfg.ok = true ∧ s.st = .idle ∧ len.toNat ≠ s.cfg.frameLen ∧ s.cfg.discardCeil.toNat < len.toNat ∧
      s.rxQueue = wireHeader s.cfg len seq ++ rest ∧ s.noReset (6 + k + 1) ∧
      (∀ i, 6 ≤ i → i < 6 + k → (s.stimulusAt i).tick = false) ∧ (s.stimulusAt (6 + k)).tick = true :=
  ⟨1, { fed (wireHeader p3 4097#16 0#16 ++ [0xAA#8]) 7 with script := calm 7 ++ [{ silent 0#32 with tick := true }] },
    4097#16, 0#16, [0xAA#8], by decide, rfl, by decide, by decide, by decide, noReset_of_all (by decide),
    by
      intro i h1 h2
      obtain rfl : i = 6 := by omega
      rfl, rfl⟩

/-- A read of which one byte has come, silent for two steps under a timeout of 2, across the wrap of `now_ms`. -/
def quietRead (st : SyncState) : State :=
  { at0 { p3 with timeoutMs := 2#32 } st with
    cnt := 1#16
    tLast := 0xFFFFFFFE#32
    script := [silent 0xFFFFFFFF#32, silent 0#32] }

theorem witness_SilenceAbandonsTheRead :
    ∀ st, st = .hdr ∨ st = .payload ∨ st = .discard →
      (quietRead st).cfg.ok = true ∧ (quietRead st).st = st ∧ (quietRead st).rxQueue = [] ∧
      ∀ i < (quietRead st).cfg.timeoutMs.toNat, ((quietRead st).stimulusAt i).rst = false ∧
        ((quietRead st).stimulusAt i).arrive = [] ∧
        ((quietRead st).stimulusAt i).nowMs = (quietRead st).tLast + BitVec.ofNat 32 (i + 1) := by
  intro st _
  refine ⟨rfl, rfl, rfl, ?_⟩
  show ∀ i < 2, _
  intro i hi
  have h : i = 0 ∨ i = 1 := by omega
  have h0 : (0xFFFFFFFF#32 : Millis) = 0xFFFFFFFE#32 + BitVec.ofNat 32 1 := by decide
  have h1 : (0#32 : Millis) = 0xFFFFFFFE#32 + BitVec.ofNat 32 2 := by decide
  rcases h with rfl | rfl
  · exact ⟨rfl, rfl, h0⟩
  · exact ⟨rfl, rfl, h1⟩

theorem witness_SameFrameTwiceShowsTheSame :
    ∃ (s : State) (len seq₁ seq₂ : Half) (payload rest : List Byte),
      s.cfg.ok = true ∧ s.st = .idle ∧ len.toNat = s.cfg.frameLen ∧ payload.length = s.cfg.frameLen ∧
      s.rxQueue = wireFrame s.cfg len seq₁ payload ++ (wireFrame s.cfg len seq₂ payload ++ rest) ∧
      s.noReset (6 + s.cfg.frameLen + 1 + (6 + s.cfg.frameLen)) ∧
      (s.stimulusAt (6 + s.cfg.frameLen)).tick = true :=
  ⟨{ fed (wireFrame p3 3#16 1#16 [1#8, 2#8, 3#8] ++ wireFrame p3 3#16 2#16 [1#8, 2#8, 3#8]) 9 with
      script := calm 9 ++ [{ silent 0#32 with tick := true }] ++ calm 9 },
    3#16, 1#16, 2#16, [1#8, 2#8, 3#8], [], by decide, rfl, by decide, by decide, by decide,
    noReset_of_all (by decide), rfl⟩

theorem witness_FailedSecondByteIsNotTestedAgain :
    ∃ (s : State) (rest : List Byte), s.cfg.ok = true ∧ s.st = .idle ∧ s.cfg.marker0 ≠ s.cfg.marker1 ∧
      s.rxQueue = s.cfg.marker0 :: s.cfg.marker0 :: s.cfg.marker1 :: rest ∧ s.noReset 3 :=
  ⟨fed [0xAA#8, 0xAA#8, 0x55#8, 1#8] 3, [1#8], by decide, rfl, by decide, by decide, noReset_of_all (by decide)⟩

/-- Two channels of one pixel each; the last pixel of channel 1 is at the end of the payload. -/
theorem witness_PixelsAreThePayloadTriples :
    ∃ (s : State) (payload : List Byte) (c : Fin 2) (j : Nat),
      s.cfg.ok = true ∧ payload.length = s.cfg.frameLen ∧
      (∀ off : Half, off.toNat < s.cfg.frameLen → payload[off.toNat]? = some (s.bufByte s.front off)) ∧
      j < channelSize s.cfg c :=
  ⟨{ at0 p3 .render with mem := [(0, 1#8), (1, 2#8), (2, 3#8)], hasFrame := true }, [1#8, 2#8, 3#8], 0, 0, by decide,
    by decide, by
      intro off h
      have h3 : off.toNat < 3 := h
      have hc : off = 0#16 ∨ off = 1#16 ∨ off = 2#16 := by
        have h' : off.toNat = 0 ∨ off.toNat = 1 ∨ off.toNat = 2 := by omega
        rcases h' with h' | h' | h'
        · exact .inl (BitVec.eq_of_toNat_eq h')
        · exact .inr (.inl (BitVec.eq_of_toNat_eq h'))
        · exact .inr (.inr (BitVec.eq_of_toNat_eq h'))
      rcases hc with rfl | rfl | rfl <;> decide, by decide⟩

theorem witness_ChannelsPartitionThePixels :
    0 < Params.ex1.totalPixels ∧ channelOf Params.ex1 1 = (0, 1) ∧ channelOf Params.ex1 2 = (1, 0) ∧
    channelOf Params.ex1 3 = (1, 1) ∧ ¬ 4 < Params.ex1.totalPixels := by decide

end Sys2Proof.Tests
end

section
/-! PROOFS. The statements about the parameters, the wire, the sampling and the rows' frames (00_scope.md R6, R7, R10, R12). -/

namespace Sys2Proof.Machine

/-! ### Refused parameters (R7, R113 (d)) -/

/-- A selected row that faults stops the step with its fault: the read port does not mask it. -/
theorem step_of_fault {s : State} {r : Fault} (hc : s.cfg.ok = true)
    (h : exec s.sample.fetch s.sample = .fault r) : step s = .fault r := by
  simp only [step, State.instantiated, hc, if_true, withPort, h, onNext_fault]

/-- A step refuses nothing but the parameters: no selected row is refused. -/
theorem step_eq_refused_iff {s : State} {r : Refusal} :
    step s = .refused r ↔ s.cfg.ok = false ∧ r = .badConfiguration := by
  cases hc : s.cfg.ok with
  | false => simp [step, State.instantiated, hc, eq_comm]
  | true =>
    obtain ⟨u, hu⟩ | ⟨-, -, hf⟩ | ⟨-, -, -, hf⟩ := exec_fetch_cases s.sample
    · simp [step_of_row hc hu]
    · simp [step_of_fault hc hf]
    · simp [step_of_fault hc hf]

/-! ### The wire (R10, R53, R54) -/

theorem toNat_eq_lowByte_add_highByte (w : Half) : w.toNat = (lowByte w).toNat + 256 * (highByte w).toNat := by
  rw [← u16le_toNat, u16le_lowByte_highByte]

/-- R53: the four fields of the header word, the sequence number in the highest bits. -/
theorem headerWord_toNat (p : Params) (len seq : Half) :
    (headerWord p len seq).toNat =
      ((seq.toNat * 2 ^ 16 + len.toNat) * 2 ^ 8 + p.marker1.toNat) * 2 ^ 8 + p.marker0.toNat := by
  simp only [headerWord, toNat_concat]

/-! ### Sampling (R12, R16) -/

theorem nextStimulus_of_script {s : State} {x : Stimulus} {xs : List Stimulus} (h : s.script = x :: xs) :
    s.nextStimulus = x := by
  simp [State.nextStimulus, h]

theorem sameRegisters_sample (s : State) : SameRegisters s s.sample := sameRegisters_refl s

theorem sameBuffers_sample (s : State) : SameBuffers s s.sample := sample_bufByte s

/-! ### The rows whose next state depends on a test -/

/-- R86: PAY_BYTE goes on where the offset names a byte. -/
theorem exec_payByte_eq_next {b : Byte} {s t : State} :
    exec (.payByte b) s = .next t ↔ s.cnt.toNat < s.cfg.frameLen ∧
      t = ((s.store s.back s.cnt b).consume.setCnt (s.cnt + 1#16)).emit .none := by
  by_cases hlt : s.cnt.toNat < s.cfg.frameLen <;> simp [exec, execPayByte, bufWrite, hlt, eq_comm]

/-- R87: PAY_COMMIT goes on where the offset names a byte. -/
theorem exec_payCommit_eq_next {b : Byte} {s t : State} :
    exec (.payCommit b) s = .next t ↔ s.cnt.toNat < s.cfg.frameLen ∧
      t = (s.store s.back s.cnt b).consume.commit.goto .render := by
  by_cases hlt : s.cnt.toNat < s.cfg.frameLen <;> simp [exec, execPayCommit, bufWrite, hlt, eq_comm]

/-- R79: HDR_MISMATCH discards the declared payload, or returns to IDLE where none is declared. -/
theorem exec_hdrMismatch_eq_next {b : Byte} {s t : State} :
    exec (.hdrMismatch b) s = .next t ↔
      (s.lenR = 0#16 ∧ t = ((captureLast b s).goto .idle).emit .lengthMismatch) ∨
      (s.lenR ≠ 0#16 ∧ t = (((captureLast b s).setCnt s.lenR).goto .discard).emit .lengthMismatch) := by
  by_cases hz : s.lenR = 0#16 <;> simp [exec, execHdrMismatch, hz, eq_comm]

/-- R99, R100: FRONT_READ goes on where the address names a byte. -/
theorem exec_frontRead_eq_next {addr : Half} {s t : State} :
    exec (.frontRead addr) s = .next t ↔ addr.toNat < s.cfg.frameLen ∧
      t = s.drive (some (s.bufByte s.front addr)) := by
  by_cases hlt : addr.toNat < s.cfg.frameLen <;> simp [exec, execFrontRead, readPort, hlt, eq_comm]

/-- R90: DISC_BYTE, its count taken modulo 2^16. -/
theorem exec_discByte (b : Byte) (s : State) :
    exec (.discByte b) s = .next { s with
      cnt := s.cnt - 1#16, tLast := s.pins.nowMs, rxQueue := s.rxQueue.tail, out := { s.out with ev := .none } } :=
  rfl

/-! ### The channels (R6, R55) -/

theorem channelOf_of_lt {p : Params} {i : Nat} (h : i < p.n0) : channelOf p i = (0, i) := if_pos h

theorem channelOf_of_le {p : Params} {i : Nat} (h : p.n0 ≤ i) : channelOf p i = (1, i - p.n0) :=
  if_neg (Nat.not_lt.mpr h)

/-- A local pixel's global index belongs to its own channel. -/
theorem channelOf_offset_add {p : Params} {c : Fin 2} {j : Nat} (h : j < channelSize p c) :
    channelOf p (channelOffset p c + j) = (c, j) := by
  match c with
  | 0 => simpa [channelOffset] using channelOf_of_lt (p := p) h
  | 1 => simpa [channelOffset] using channelOf_of_le (Nat.le_add_right p.n0 j)

/-- The channel's offset and the local index give the global index back. -/
theorem offset_add_channelOf (p : Params) (i : Nat) :
    channelOffset p (channelOf p i).1 + (channelOf p i).2 = i := by
  rcases Nat.lt_or_ge i p.n0 with h | h
  · simp [channelOf_of_lt h, channelOffset]
  · simp [channelOf_of_le h, channelOffset, h]

theorem channelOf_in_range_iff (p : Params) (i : Nat) :
    (channelOf p i).2 < channelSize p (channelOf p i).1 ↔ i < p.totalPixels := by
  rcases Nat.lt_or_ge i p.n0 with h | h
  · simp only [channelOf_of_lt h, channelSize, Params.totalPixels, if_true]
    omega
  · simp only [channelOf_of_le h, channelSize, Params.totalPixels, one_ne_zero, if_false]
    omega

/-! ### The statements -/

/-- Settles O8: no selected row is refused, so a refusal is the parameters', and these meet R7 exactly when `ok` holds. -/
theorem parametersOutsideTheConstraintsAreRefused : Obligations.ParametersOutsideTheConstraintsAreRefused := by
  intro s
  have hok : (1 ≤ 3 * (s.cfg.n0 + s.cfg.n1) ∧ 3 * (s.cfg.n0 + s.cfg.n1) ≤ 65535 ∧ 1 ≤ s.cfg.timeoutMs.toNat) ↔
      s.cfg.ok = true := (Params.ok_iff s.cfg).symm
  simp [step_eq_refused_iff, hok]

/-- Settles O27, row by row: the four rows with a test by their inversion lemmas, RESERVED_STATE by having no next state, the others by their one next state. -/
theorem rowsWriteOnlyTheirRegisters : Obligations.RowsWriteOnlyTheirRegisters := by
  intro i s t h
  cases i
  case reservedState => cases h
  case' hdrMismatch b => obtain ⟨-, h⟩ | ⟨-, h⟩ := exec_hdrMismatch_eq_next.mp h
  case' payByte b => obtain ⟨-, h⟩ := exec_payByte_eq_next.mp h
  case' payCommit b => obtain ⟨-, h⟩ := exec_payCommit_eq_next.mp h
  case' frontRead addr => obtain ⟨-, h⟩ := exec_frontRead_eq_next.mp h
  all_goals
    cases h
    simp [writesSt, writesHcnt, writesLen, writesSeq, writesCnt, writesRoles, takesByte, SameRoles]

/-- Settles O5: a 16-bit field is its low byte and 256 times its high byte, on both sides of the header word. -/
theorem wireFieldsAreLittleEndian : Obligations.WireFieldsAreLittleEndian := by
  refine ⟨u16le_toNat, u16le_lowByte_highByte, fun p len seq => ?_⟩
  rw [headerWord_toNat, toNat_eq_lowByte_add_highByte len, toNat_eq_lowByte_add_highByte seq]
  simp only [wireHeader, List.foldr_cons, List.foldr_nil]
  omega

/-- Settles O6: the sampled inputs are the next stimulus and the head of the next queue. -/
theorem samplingTakesTheOutsideInputs : Obligations.SamplingTakesTheOutsideInputs := by
  intro s x xs hs
  have hx := nextStimulus_of_script hs
  simp [hx, hs, State.nextQueue, sameRegisters_sample, sameBuffers_sample]

/-- Settles O20: a count of 0 is not 1, and `0 - 1` is `0xFFFF` on 16 bits. -/
theorem discardCountZeroWraps : Obligations.DiscardCountZeroWraps := by
  intro s b hs hr hx hc
  have hne : s.cnt ≠ 1#16 := by rw [hc]; decide
  have hwrap : s.cnt - 1#16 = 0xFFFF#16 := by rw [hc]; decide
  exact ⟨(fetch_discard_byte hr hs hx).trans (if_neg hne), by rw [exec_discByte, hwrap]⟩

/-- Settles O59: `channelOf` and adding the channel's offset undo each other. -/
theorem channelsPartitionThePixels : Obligations.ChannelsPartitionThePixels := by
  intro p i
  refine ⟨(channelOf_in_range_iff p i).symm, fun _ => ⟨offset_add_channelOf p i, fun c j hj hi => ?_⟩⟩
  rw [← hi, channelOf_offset_add hj]

end Sys2Proof.Machine
end

section
/-! PROOFS. The statements about every step and every run of 10_state.md: outputs, the consumed byte, the roles and the buffers, and the invariant R37. -/

namespace Sys2Proof.Machine

/-! ### What a step drives (R31, R21) -/

/-- R31: the event of each row. FRONT_READ has none of its own. -/
def rowEvent : Instr → Event
  | .payCommit _ => .frameReady
  | .hdrTimeout | .payTimeout | .discTimeout => .transportTimeout
  | .hdrMismatch _ => .lengthMismatch
  | .hdrTooLarge _ => .lengthTooLarge
  | .reset | .idleM0 _ | .idleSkip _ | .idleWait | .gotM1 _ | .gotFail _ | .gotWait | .hdrByte _ | .hdrAccept _
  | .hdrWait | .payByte _ | .payWait | .discByte _ | .discDone _ | .discWait | .renderRelease | .renderHold
  | .holdRelease | .holdHold | .reservedState | .frontRead _ => .none

/-- R63: FRONT_READ is no row of the selector. -/
theorem fetch_ne_frontRead (c : State) (addr : Half) : c.fetch ≠ .frontRead addr := by
  unfold State.fetch decodeSel
  repeat' split
  all_goals nofun

/-- A row other than FRONT_READ drives its own event. -/
theorem exec_ev {i : Instr} {c u : State} (hi : ∀ addr, i ≠ .frontRead addr) (h : exec i c = .next u) :
    u.out.ev = rowEvent i := by
  cases i
  case reservedState => cases h
  case frontRead addr => exact absurd rfl (hi addr)
  case' hdrMismatch b => obtain ⟨-, h⟩ | ⟨-, h⟩ := exec_hdrMismatch_eq_next.mp h
  case' payByte b => obtain ⟨-, h⟩ := exec_payByte_eq_next.mp h
  case' payCommit b => obtain ⟨-, h⟩ := exec_payCommit_eq_next.mp h
  all_goals
    cases h
    rfl

/-- The outputs of a step: the selected row's event, and the read port's answer on the state before the step. -/
theorem step_out {s t : State} (h : step s = .next t) :
    t.out = { ev := rowEvent s.sample.fetch, rdData := readPort s s.nextStimulus.rdAddr } := by
  obtain ⟨-, u, hu, rfl⟩ := step_exec h
  rw [← exec_ev (fetch_ne_frontRead _) hu]
  rfl

/-- Settles O31: a step drives its row's event, and the codes of the five events differ. -/
theorem eventsComeFromTheirRows : Obligations.EventsComeFromTheirRows := by
  intro s t h
  have hev : t.evOut = (rowEvent s.sample.fetch).code := by rw [State.evOut, step_out h]
  rw [hev]
  cases s.sample.fetch <;> simp [rowEvent, Event.code]

/-- Settles O33: the port's answer is `readPort` of the state before the step, for every row. -/
theorem readPortShowsTheStateBeforeTheStep : Obligations.ReadPortShowsTheStateBeforeTheStep := by
  intro s t h
  rw [step_out h]
  exact ⟨readPort_in_range, readPort_out_of_range⟩

/-- Whether a row goes on does not depend on what the buffers hold. -/
theorem exec_next_of_mem {i : Instr} {c u : State} (m : List Host.Cell) (h : exec i c = .next u) :
    ∃ v, exec i { c with mem := m } = .next v := by
  cases i
  case reservedState => cases h
  case payByte b => exact ⟨_, exec_payByte_eq_next.mpr ⟨(exec_payByte_eq_next.mp h).1, rfl⟩⟩
  case payCommit b => exact ⟨_, exec_payCommit_eq_next.mpr ⟨(exec_payCommit_eq_next.mp h).1, rfl⟩⟩
  case frontRead addr => exact ⟨_, exec_frontRead_eq_next.mpr ⟨(exec_frontRead_eq_next.mp h).1, rfl⟩⟩
  all_goals exact ⟨_, rfl⟩

/-- A read port shows the front buffer alone. -/
theorem readPort_congr {s t : State} (hc : t.cfg = s.cfg)
    (hb : ∀ off : Half, t.bufByte t.front off = s.bufByte s.front off)
    (addr : Half) : readPort t addr = readPort s addr := by
  simp only [readPort, hc, hb]

/-- Settles O36: the row is selected, and its event driven, without the buffers, and the port reads the front one alone. -/
theorem backBufferIsInvisible : Obligations.BackBufferIsInvisible := by
  intro s m t hfront h
  obtain ⟨hc, c, hc', -⟩ := step_exec h
  obtain ⟨v, hv⟩ := exec_next_of_mem m hc'
  have hstep := step_of_row (s := { s with mem := m }) hc hv
  refine ⟨_, hstep, ?_⟩
  have hport : readPort { s with mem := m } s.nextStimulus.rdAddr = readPort s s.nextStimulus.rdAddr :=
    readPort_congr (s := s) (t := { s with mem := m }) rfl hfront _
  rw [step_out hstep, step_out h, ← hport]
  rfl

/-! ### The consumed byte (R16, R17, R28) -/

theorem take_of_waiting {s : State} (h : s.st = .render ∨ s.st = .hold) : s.take = false := by
  rcases h with h | h <;> simp [State.take, State.rxReady, SyncState.ready, h]

theorem rx_of_take {s : State} (h : s.take = true) : ∃ b, s.pins.rx = some b := by
  simp only [State.take, Bool.and_eq_true, Option.isSome_iff_exists] at h
  obtain ⟨⟨-, hb⟩, -⟩ := h
  exact hb

/-- A row with a byte in a reading state takes it from the stream and writes `t_last`; no other row does, but RESET clears `t_last`. -/
theorem RowStep.consumed {c u : State} (h : RowStep c u) :
    (c.take = true → u.rxQueue = c.rxQueue.tail ∧ u.tLast = c.pins.nowMs) ∧
    (c.take = false → u.rxQueue = c.rxQueue ∧ (c.pins.rst = false → u.tLast = c.tLast)) := by
  cases h
  case release hs _ => simp [take_of_waiting hs]
  case hold hs _ => simp [take_of_waiting hs]
  case waitScan hx => simp [State.take, hx]
  case timeout hx _ => simp [State.take, hx]
  case waitTimed hx _ => simp [State.take, hx]
  case reset hr => simp [State.take, hr]
  all_goals simp [State.take, State.rxReady, SyncState.ready, *]

/-- Settles O28: by rows, a step consumes the head of the byte source exactly with `take`. -/
theorem takeConsumesOneByte : Obligations.TakeConsumesOneByte := by
  intro s t h
  obtain ⟨-, u, hu, rfl⟩ := step_next h
  refine ⟨fun ht => ?_, hu.consumed.2⟩
  obtain ⟨hq, hl⟩ := hu.consumed.1 ht
  obtain ⟨b, hb⟩ := rx_of_take ht
  exact ⟨b, hb, by rw [drive_rxQueue, hq]; exact sample_queue_of_rx hb, hl⟩

theorem rxReady_iff (s : State) : s.rxReady = true ↔
    (s.st = .idle ∨ s.st = .gotM0 ∨ s.st = .hdr ∨ s.st = .payload ∨ s.st = .discard) ∧ s.pins.rst = false := by
  cases hs : s.st <;> simp [State.rxReady, SyncState.ready, hs]

/-- With a byte offered, `take` is `rx_ready`. -/
theorem take_of_offered {s : State} {b : Byte} (h : s.pins.rx = some b) : s.take = s.rxReady := by
  cases hr : s.pins.rst <;> simp [State.take, State.rxReady, h, hr]

/-- Settles O29: with a byte offered `take` is `rx_ready`, and an unconsumed byte stays the oldest one. -/
theorem offeredByteStaysUntilReady : Obligations.OfferedByteStaysUntilReady := by
  refine ⟨rxReady_iff, fun s t b h hx => ?_⟩
  obtain ⟨htake, hkeep⟩ := takeConsumesOneByte s t h
  rw [take_of_offered hx] at htake hkeep
  refine ⟨fun hr => ?_, fun hr => ?_⟩
  · obtain ⟨b', hb', hq, -⟩ := htake hr
    rw [hx] at hb'
    cases hb'
    exact hq
  · obtain ⟨hq, -⟩ := hkeep hr
    exact ⟨hq, (sample_rx_of_queue (hq.trans (sample_queue_of_rx hx))).1⟩

/-! ### The roles and the buffers (R38) -/

/-- Settles O25, row by row: no row outside the three changes the memory or draws. -/
theorem rowsWithoutStoreKeepEveryByte : Obligations.RowsWithoutStoreKeepEveryByte := by
  intro i s t hw h k off
  cases i
  case reset => cases hw
  case payByte b => cases hw
  case payCommit b => cases hw
  case reservedState => cases h
  case' hdrMismatch b => obtain ⟨-, h⟩ | ⟨-, h⟩ := exec_hdrMismatch_eq_next.mp h
  case' frontRead addr => obtain ⟨-, h⟩ := exec_frontRead_eq_next.mp h
  all_goals
    cases h
    simp

theorem writesRoles_iff (i : Instr) : writesRoles i = true ↔ i = .reset ∨ ∃ b, i = .payCommit b := by
  cases i <;> simp [writesRoles]

theorem writesBuffer_iff (i : Instr) :
    writesBuffer i = true ↔ i = .reset ∨ ∃ b, i = .payByte b ∨ i = .payCommit b := by
  cases i <;> simp [writesBuffer]

/-- Without a reset, a row changes no byte but that at offset `cnt` of the back buffer. -/
theorem RowStep.bufByte {c u : State} (h : RowStep c u) (hr : c.pins.rst = false) (k : BitVec 1) (off : Half)
    (hne : (k, off) ≠ (c.back, c.cnt)) : u.bufByte k off = c.bufByte k off := by
  cases h
  case reset hr' => rw [hr] at hr'; cases hr'
  case payByte b _ _ _ _ => exact store_bufByte_other c c.back k c.cnt off b hne
  case payCommit b _ _ _ _ _ => exact store_bufByte_other c c.back k c.cnt off b hne
  all_goals simp

theorem step_bufByte {s t : State} (h : step s = .next t) (hr : s.sample.pins.rst = false) (k : BitVec 1) (off : Half)
    (hne : (k, off) ≠ (s.back, s.cnt)) : t.bufByte k off = s.bufByte k off := by
  obtain ⟨-, u, hu, rfl⟩ := step_next h
  exact hu.bufByte hr k off hne

/-- Settles O32: the rows' frames name the rows that write, and a payload row stores at `(back, cnt)` alone. -/
theorem onlyTheCommitMovesTheFront : Obligations.OnlyTheCommitMovesTheFront := by
  intro s t h
  obtain ⟨-, u, hu, rfl⟩ := step_exec h
  refine ⟨fun hne => ?_, fun hne => ?_, fun hr k off hne => ?_, fun hr off => ?_⟩
  · by_contra hw
    obtain ⟨-, -, -, -, -, hroles, -⟩ := rowsWriteOnlyTheirRegisters _ _ _ hu
    exact hne (hroles (Bool.eq_false_iff.mpr (mt (writesRoles_iff _).mp hw)))
  · by_contra hw
    have hbuf : SameBuffers s.sample u :=
      rowsWithoutStoreKeepEveryByte _ _ _ (Bool.eq_false_iff.mpr (mt (writesBuffer_iff _).mp hw)) hu
    exact hne hbuf
  · by_contra hw
    exact hne (step_bufByte h hr k off (mt Prod.mk.inj hw))
  · exact step_bufByte h hr s.front off fun heq => back_ne_front s (Prod.mk.inj heq).1.symm

/-! ### A frame is present (R30) -/

/-- A commit is what makes `has_frame` 1, and a reset alone clears it. -/
theorem RowStep.hasFrame {c u : State} (h : RowStep c u) :
    u.hasFrame = true ↔ u.out.ev = .frameReady ∨ (c.hasFrame = true ∧ c.pins.rst = false) := by
  cases h
  case payCommit => simp
  all_goals simp [*]

theorem step_hasFrame {s t : State} (h : step s = .next t) :
    t.hasFrame = true ↔ t.out.ev = .frameReady ∨ (s.hasFrame = true ∧ s.nextStimulus.rst = false) := by
  obtain ⟨-, u, hu, rfl⟩ := step_next h
  exact hu.hasFrame

/-- Settles O46, by induction on the run's last step: a commit in it, or one before it and no reset in it. -/
theorem hasFrameMeansCommitSinceReset : Obligations.HasFrameMeansCommitSinceReset := by
  intro k s t hs h
  induction k generalizing t with
  | zero => cases h; simp [hs]
  | succ k ih =>
    obtain ⟨u, hu, ht⟩ := runSteps_last h
    have hrst : u.nextStimulus = s.stimulusAt k := by rw [nextStimulus_eq, stimulusAt_run hu, Nat.add_zero]
    rw [step_hasFrame ht, ih u hu, hrst]
    constructor
    · rintro (hev | ⟨⟨i, hik, hc, hno⟩, hr⟩)
      · exact ⟨k, Nat.lt_succ_self k, ⟨t, h, hev⟩, fun j hkj hj => by omega⟩
      · refine ⟨i, by omega, hc, fun j hij hj => ?_⟩
        obtain hj | rfl := Nat.lt_succ_iff_lt_or_eq.mp hj
        · exact hno j hij hj
        · exact hr
    · rintro ⟨i, hik, ⟨v, hv, hev⟩, hno⟩
      obtain hik | rfl := Nat.lt_succ_iff_lt_or_eq.mp hik
      · exact .inr ⟨⟨i, hik, ⟨v, hv, hev⟩, fun j hij hj => hno j hij (by omega)⟩, hno k hik (Nat.lt_succ_self k)⟩
      · rw [h] at hv
        cases hv
        exact .inl hev

/-! ### The invariant (R37) -/

/-- What the invariant says of the shown frame is not touched: the parameters, the memory, `front` and `has_frame` are the same. -/
structure SameShown (c u : State) : Prop where
  cfg : u.cfg = c.cfg
  mem : u.mem = c.mem
  front : u.front = c.front
  hasFrame : u.hasFrame = c.hasFrame

/-- A row that stores nothing keeps the invariant where the state it goes to has its count in range. -/
theorem StateInv.of_sameShown {c u : State} (hi : StateInv c) (h : SameShown c u) (hlegal : u.st ≠ .reserved)
    (hpay : u.st = .payload → u.cnt.toNat < c.cfg.frameLen ∧ WrittenBelow c c.back u.cnt.toNat)
    (hdisc : u.st = .discard → 1 ≤ u.cnt.toNat ∧ u.cnt.toNat ≤ c.cfg.discardCeil.toNat ∧
      u.cnt.toNat ≤ u.lenR.toNat ∧ u.lenR.toNat ≠ c.cfg.frameLen) : StateInv u where
  configured := h.cfg ▸ hi.configured
  legal := hlegal
  payloadCount hs := h.cfg ▸ (hpay hs).1
  discardCount hs := by
    obtain ⟨hone, hceil, -⟩ := hdisc hs
    exact ⟨hone, h.cfg ▸ hceil⟩
  discardDeclared hs := by
    obtain ⟨-, -, hle, hne⟩ := hdisc hs
    exact ⟨hle, h.cfg ▸ hne⟩
  memoryWf := h.mem ▸ hi.memoryWf
  inSpace := by rw [h.mem, h.cfg]; exact hi.inSpace
  receivedWritten hs := by
    have hw := (hpay hs).2
    simpa only [WrittenBelow, State.back, h.mem, h.front] using hw
  frontWritten hf := by
    have hw := hi.frontWritten (h.hasFrame ▸ hf)
    simpa only [WrittenBelow, h.mem, h.front, h.cfg] using hw

/-- A row that stores nothing and goes to a state without a count keeps the invariant. -/
theorem StateInv.of_uncounted {c u : State} (hi : StateInv c) (h : SameShown c u) (hlegal : u.st ≠ .reserved)
    (hpay : u.st ≠ .payload) (hdisc : u.st ≠ .discard) : StateInv u :=
  hi.of_sameShown h hlegal (fun hs => absurd hs hpay) (fun hs => absurd hs hdisc)

/-- A row that keeps `st`, `cnt` and `len_r` too keeps the invariant. -/
theorem StateInv.of_sameCount {c u : State} (hi : StateInv c) (h : SameShown c u) (hst : u.st = c.st)
    (hcnt : u.cnt = c.cnt) (hlen : u.lenR = c.lenR) : StateInv u := by
  refine hi.of_sameShown h (hst ▸ hi.legal) (fun hs => ?_) (fun hs => ?_) <;> rw [hst] at hs
  · rw [hcnt]
    exact ⟨hi.payloadCount hs, hi.receivedWritten hs⟩
  · rw [hcnt, hlen]
    obtain ⟨hone, hceil⟩ := hi.discardCount hs
    exact ⟨hone, hceil, hi.discardDeclared hs⟩

theorem StateInv.sample {s : State} (hi : StateInv s) : StateInv s.sample :=
  hi.of_sameCount ⟨rfl, rfl, rfl, rfl⟩ rfl rfl rfl

theorem StateInv.drive {s : State} (hi : StateInv s) (d : Option Byte) : StateInv (s.drive d) :=
  hi.of_sameCount ⟨rfl, rfl, rfl, rfl⟩ rfl rfl rfl

theorem StateInv.wait {s : State} (hi : StateInv s) : StateInv s.wait :=
  hi.of_sameCount ⟨rfl, rfl, rfl, rfl⟩ rfl rfl rfl

/-- The registers of a reset meet the invariant: IDLE, no frame, nothing written. -/
theorem stateInv_of_isReset {s : State} (h : IsReset s) : StateInv s where
  configured := h.configured
  legal := by simp [h.stIdle]
  payloadCount := by simp [h.stIdle]
  discardCount := by simp [h.stIdle]
  discardDeclared := by simp [h.stIdle]
  memoryWf := by rw [h.nothingWritten]; rfl
  inSpace := by simp [h.nothingWritten]
  receivedWritten := by simp [h.stIdle]
  frontWritten := by simp [h.noFrame]

/-- R123: RESET leaves a reset state. -/
theorem isReset_resetRegisters {c : State} (h : c.cfg.ok = true) : IsReset (c.resetRegisters.emit .none) :=
  ⟨h, rfl, rfl, rfl, rfl, rfl, rfl, rfl, rfl, rfl⟩

/-! ### A store and what is written -/

theorem WrittenBelow.store {c : State} {k : BitVec 1} {n : Nat} (h : WrittenBelow c k n) (k' : BitVec 1) (off : Half)
    (b : Byte) : WrittenBelow (c.store k' off b) k n := by
  intro off' hlt
  rw [store_mem]
  by_cases heq : bufAddr k off' = bufAddr k' off
  · rw [heq, Memory.read_write_same]; rfl
  · rw [Memory.read_write_other _ _ _ _ heq]
    exact h off' hlt

/-- A byte stored at the end of what is written extends it by one. -/
theorem WrittenBelow.store_next {c : State} {k : BitVec 1} {off : Half} (h : WrittenBelow c k off.toNat) (b : Byte) :
    WrittenBelow (c.store k off b) k (off.toNat + 1) := by
  intro off' hlt
  obtain hlt | heq := Nat.lt_succ_iff_lt_or_eq.mp hlt
  · exact h.store k off b off' hlt
  · rw [BitVec.eq_of_toNat_eq heq, store_mem, Memory.read_write_same]
    rfl

/-- R41: a store below `FRAME_LEN` stays inside the buffers. -/
theorem StateInv.inSpace_store {c : State} (hi : StateInv c) (k : BitVec 1) {off : Half}
    (hoff : off.toNat < c.cfg.frameLen) (b : Byte) :
    ∀ x ∈ (c.store k off b).mem, ∃ (k' : BitVec 1) (off' : Half), x.1 = bufAddr k' off' ∧ off'.toNat < c.cfg.frameLen := by
  intro x hx
  obtain rfl | hx := Memory.mem_write _ _ _ _ hx
  · exact ⟨k, off, rfl, hoff⟩
  · exact hi.inSpace x hx

/-- The payload count does not wrap: `FRAME_LEN` is a 16-bit number. -/
theorem StateInv.cnt_add_one {c : State} (hi : StateInv c) (hc : c.cnt.toNat < c.cfg.frameLen - 1) :
    (c.cnt + 1#16).toNat = c.cnt.toNat + 1 := by
  obtain ⟨-, hmax, -⟩ := (Params.ok_iff _).mp hi.configured
  have hlt : c.cnt.toNat + (1#16).toNat < 2 ^ 16 := by
    rw [BitVec.toNat_one (by decide)]
    omega
  exact BitVec.toNat_add_of_lt hlt

/-- R86: the stored byte is the one more that is received. -/
theorem StateInv.payByte {c : State} (hi : StateInv c) (hs : c.st = .payload)
    (hc : c.cnt.toNat < c.cfg.frameLen - 1) (b : Byte) :
    StateInv (((c.store c.back c.cnt b).consume.setCnt (c.cnt + 1#16)).emit .none) where
  configured := hi.configured
  legal := hi.legal
  payloadCount _ := by
    show (c.cnt + 1#16).toNat < c.cfg.frameLen
    rw [hi.cnt_add_one hc]
    omega
  discardCount hd := absurd (hs.symm.trans hd) (by decide)
  discardDeclared hd := absurd (hs.symm.trans hd) (by decide)
  memoryWf := Memory.write_wf _ _ _ hi.memoryWf
  inSpace := hi.inSpace_store c.back (hi.payloadCount hs) b
  receivedWritten _ := by
    have hw := (hi.receivedWritten hs).store_next b
    rw [← hi.cnt_add_one hc] at hw
    exact hw
  frontWritten hf := (hi.frontWritten hf).store c.back c.cnt b

/-- R87: with the last byte stored the back buffer is whole, so the frame shown after the swap is. -/
theorem StateInv.payCommit {c : State} (hi : StateInv c) (hs : c.st = .payload) (hf : 1 ≤ c.cfg.frameLen)
    (hc : c.cnt.toNat = c.cfg.frameLen - 1) (b : Byte) :
    StateInv ((c.store c.back c.cnt b).consume.commit.goto .render) where
  configured := hi.configured
  legal := by simp
  payloadCount := by simp
  discardCount := by simp
  discardDeclared := by simp
  memoryWf := Memory.write_wf _ _ _ hi.memoryWf
  inSpace := hi.inSpace_store c.back (hi.payloadCount hs) b
  receivedWritten := by simp
  frontWritten _ := by
    have hw := (hi.receivedWritten hs).store_next b
    rw [hc, Nat.sub_add_cancel hf] at hw
    exact hw

/-- R37 of one row: a header opens a payload at count 0 or a discard at the declared length, a payload byte extends what is written, a discarded byte lowers a count above 1, a commit shows a whole buffer; every other row leaves the counted states or waits in them. -/
theorem RowStep.stateInv {c u : State} (h : RowStep c u) (hi : StateInv c) : StateInv u := by
  cases h with
  | reset => exact stateInv_of_isReset (isReset_resetRegisters hi.configured)
  | hdrByte b hr hs =>
    exact hi.of_uncounted ⟨by simp, by simp, by simp, by simp⟩ (by simp [hs]) (by simp [hs]) (by simp [hs])
  | hdrAccept b hr hs hx hc hl =>
    refine hi.of_sameShown ⟨rfl, rfl, rfl, rfl⟩ (by simp) (fun _ => ⟨?_, ?_⟩) (by simp)
    · exact ((Params.ok_iff _).mp hi.configured).1
    · exact fun off hoff => absurd hoff (Nat.not_lt_zero _)
  | hdrMismatch b hr hs hx hc hl hz =>
    obtain ⟨hne, hle⟩ := classify_eq_mismatch.mp hl
    have hpos : 1 ≤ c.lenR.toNat := Nat.one_le_iff_ne_zero.mpr (mt (fun h0 => BitVec.eq_of_toNat_eq h0) hz)
    exact hi.of_sameShown ⟨rfl, rfl, rfl, rfl⟩ (by simp) (by simp) fun _ => ⟨hpos, hle, Nat.le_refl _, hne⟩
  | payByte b hr hs hx hc => exact hi.payByte hs hc b
  | payCommit b hr hs hx hf hc => exact hi.payCommit hs hf hc b
  | discByte b hr hs hx hc =>
    obtain ⟨hone, hceil⟩ := hi.discardCount hs
    obtain ⟨hle, hne⟩ := hi.discardDeclared hs
    have hcnt : (c.cnt - 1#16).toNat = c.cnt.toNat - 1 := BitVec.toNat_sub_of_le hone
    have hc' : c.cnt.toNat ≠ 1 := mt (fun h1 => BitVec.eq_of_toNat_eq h1) hc
    refine hi.of_sameShown ⟨rfl, rfl, rfl, rfl⟩ (by simp [hs]) (by simp [hs]) fun _ => ?_
    show 1 ≤ (c.cnt - 1#16).toNat ∧ (c.cnt - 1#16).toNat ≤ _ ∧ (c.cnt - 1#16).toNat ≤ c.lenR.toNat ∧ _
    exact ⟨by omega, by omega, by omega, hne⟩
  | waitTimed | waitScan | hold => exact hi.wait
  | idleSkip b hr hs => exact hi.of_uncounted ⟨rfl, rfl, rfl, rfl⟩ (by simp [hs]) (by simp [hs]) (by simp [hs])
  | idleM0 | gotM1 | gotFail | hdrMismatchZero | hdrTooLarge | timeout | discDone | release =>
    exact hi.of_uncounted ⟨rfl, rfl, rfl, rfl⟩ (by simp) (by simp) (by simp)

/-- Settles O43: sampling and the read port touch nothing of the invariant, and every row keeps it. -/
theorem stepKeepsTheInvariant : Obligations.StepKeepsTheInvariant := by
  intro s t hi h
  obtain ⟨-, u, hu, rfl⟩ := step_next h
  exact (hu.stateInv hi.sample).drive _

/-- Settles O9: the invariant excludes the two states in which a row faults, the reserved one and a payload count outside the buffers. -/
theorem invariantStatesNeverStop : Obligations.InvariantStatesNeverStop := by
  intro s hi
  obtain ⟨u, hu⟩ | ⟨-, hs, -⟩ | ⟨-, hs, hle, -⟩ := exec_fetch_cases s.sample
  · exact ⟨_, step_of_row hi.configured hu⟩
  · exact absurd hs hi.legal
  · exact absurd (hi.payloadCount hs) (Nat.not_lt.mpr hle)

/-! ### Reachable states -/

/-- Every state a run from a reset reaches meets the invariant. -/
theorem Reachable.stateInv {s : State} (h : Reachable s) : StateInv s := by
  induction h with
  | reset s hs => exact stateInv_of_isReset hs
  | step s t _ hst ih => exact stepKeepsTheInvariant s t ih hst

/-- Settles O44: the clauses of the invariant, which every reachable state meets. -/
theorem reachableStatesRunOn : Obligations.ReachableStatesRunOn := by
  intro s h
  have hi := h.stateInv
  exact ⟨invariantStatesNeverStop s hi, hi.legal, hi.payloadCount, hi.discardCount, hi.frontWritten⟩

/-- R79 is the one row that enters DISCARD. -/
theorem RowStep.enters_discard {c u : State} (h : RowStep c u) (hs : c.st ≠ .discard) (hu : u.st = .discard) :
    u.cnt = u.lenR ∧ u.lenR ≠ 0#16 ∧ classify u.cfg u.lenR = .mismatch := by
  cases h with
  | hdrMismatch b hr hs' hx hc hl hz => exact ⟨rfl, hz, hl⟩
  | hdrByte => exact absurd (by simpa using hu) hs
  | idleSkip | waitTimed | waitScan | hold | payByte | discByte => exact absurd hu hs
  | reset | idleM0 | gotM1 | gotFail | hdrAccept | hdrMismatchZero | hdrTooLarge | timeout | payCommit | discDone
  | release => cases hu

/-- Settles O60: a discard is entered by R79 alone, at a declared length that is a mismatch, and the invariant bounds its count by that length. -/
theorem discardStartsAtALengthOtherThanTheFrameLength : Obligations.DiscardStartsAtALengthOtherThanTheFrameLength := by
  refine ⟨fun s t h hs ht => ?_, fun s h hs => ?_⟩
  · obtain ⟨-, u, hu, rfl⟩ := step_next h
    obtain ⟨hcnt, hz, hl⟩ := hu.enters_discard hs ht
    exact ⟨hcnt, hz, classify_eq_mismatch.mp hl⟩
  · obtain ⟨hle, hne⟩ := h.stateInv.discardDeclared hs
    exact ⟨hle, hne, fun heq => by omega⟩

/-- A reset state under FRAME_LEN 3 whose byte source holds a header that declares 4 bytes, and one byte of them. -/
def longerThanTheFrame : State :=
  { State.resetWith { Params.ex1 with n0 := 1, n1 := 0 } with
    rxQueue := [0xAA#8, 0x55#8, 4#8, 0#8, 0#8, 0#8, 0#8]
    script := List.replicate 7 { rst := false, tick := false, arrive := [], nowMs := 0#32, rdAddr := 0#16 } }

/-- Refutes O45: a declared length of 4 under FRAME_LEN 3 is a mismatch, and one discarded byte brings `cnt` to 3. -/
theorem not_discardCountIsNeverTheFrameLength : ¬ Obligations.DiscardCountIsNeverTheFrameLength := by
  intro h
  have hreset : IsReset longerThanTheFrame := ⟨by decide, rfl, rfl, rfl, rfl, rfl, rfl, rfl, rfl, rfl⟩
  exact h _ ((Reachable.reset _ hreset).run (k := 7) rfl) rfl rfl

end Sys2Proof.Machine
end

section
/-! PROOFS. The statements about the buffers and the read port of 20_memory.md (R39 to R41, R46). -/

namespace Sys2Proof.Machine

/-! ### A store outside the buffers (R41) -/

theorem bufWrite_out_of_range {k : BitVec 1} {off : Half} {v : Byte} {s : State} (h : s.cfg.frameLen ≤ off.toNat) :
    bufWrite k off v s = .fault .noSuchBufferByte :=
  if_neg (Nat.not_lt.mpr h)

/-- Settles O18: both payload rows store first, at offset `cnt`, and a store there faults. -/
theorem payloadByteOutsideTheBufferFaults : Obligations.PayloadByteOutsideTheBufferFaults := by
  intro s b h
  have hstore := bufWrite_out_of_range (k := s.back) (v := b) h
  exact ⟨by simp only [exec, execPayByte, hstore, onNext_fault],
    by simp only [exec, execPayCommit, hstore, onNext_fault]⟩

/-! ### The written bytes (R39, R123) -/

/-- What a row makes of the list of written bytes: it stays, a reset empties it, or a payload row writes the byte at offset `cnt` of the back buffer. -/
theorem RowStep.mem_cases {c u : State} (h : RowStep c u) :
    u.mem = c.mem ∨ u.mem = [] ∨ ∃ b, u.mem = Memory.write c.mem (bufAddr c.back c.cnt) b := by
  cases h
  case reset => exact .inr (.inl rfl)
  case payByte b _ _ _ _ => exact .inr (.inr ⟨b, rfl⟩)
  case payCommit b _ _ _ _ _ => exact .inr (.inr ⟨b, rfl⟩)
  all_goals exact .inl (by simp)

/-- Settles O40: of the three things a row makes of the list, a write keeps the rising addresses. -/
theorem stepKeepsMemoryCanonical : Obligations.StepKeepsMemoryCanonical := by
  intro s t hwf h
  obtain ⟨-, u, hu, rfl⟩ := step_next h
  rw [drive_mem]
  obtain hm | hm | ⟨b, hm⟩ := hu.mem_cases <;> rw [hm]
  · exact hwf
  · rfl
  · exact Memory.write_wf _ _ _ hwf

/-! ### What a row reads of the sampled inputs (R12, R46) -/

/-- The state with other inputs sampled. -/
def State.withPins (p : Pins) (s : State) : State := { s with pins := p }

theorem captureMeta_withPins (b : Byte) (p : Pins) (s : State) :
    captureMeta b (s.withPins p) = (captureMeta b s).withPins p := by
  simp only [captureMeta, State.withPins]
  split <;> rfl

/-- Once selected, a row reads `now_ms` alone of the sampled inputs: under others with the same `now_ms` its next state differs in the inputs alone. -/
theorem exec_withPins {i : Instr} {c u : State} {p : Pins} (hp : p.nowMs = c.pins.nowMs) (h : exec i c = .next u) :
    exec i (c.withPins p) = .next (u.withPins p) := by
  obtain ⟨rst, tick, rx, now, addr⟩ := p
  obtain rfl : now = c.pins.nowMs := hp
  cases i
  case reservedState => cases h
  case hdrByte b =>
    cases h
    show Host.Outcome.next (((captureMeta b (c.consume.withPins _)).setHcnt _).emit .none) = _
    rw [captureMeta_withPins]
    rfl
  case hdrMismatch b =>
    rw [exec_hdrMismatch_eq_next] at h ⊢
    obtain ⟨hz, rfl⟩ | ⟨hz, rfl⟩ := h
    · exact .inl ⟨hz, rfl⟩
    · exact .inr ⟨hz, rfl⟩
  case payByte b =>
    obtain ⟨hlt, rfl⟩ := exec_payByte_eq_next.mp h
    exact exec_payByte_eq_next.mpr ⟨hlt, rfl⟩
  case payCommit b =>
    obtain ⟨hlt, rfl⟩ := exec_payCommit_eq_next.mp h
    exact exec_payCommit_eq_next.mpr ⟨hlt, rfl⟩
  case frontRead a =>
    obtain ⟨hlt, rfl⟩ := exec_frontRead_eq_next.mp h
    exact exec_frontRead_eq_next.mpr ⟨hlt, rfl⟩
  all_goals
    cases h
    rfl

/-- Another `rd_addr` in the next stimulus changes that sampled input alone. -/
theorem sample_of_rdAddr {s : State} {x : Stimulus} {xs : List Stimulus} (a : Half) (hs : s.script = x :: xs) :
    State.sample { s with script := { x with rdAddr := a } :: xs } =
      s.sample.withPins { s.sample.pins with rdAddr := a } := by
  simp [State.sample, State.withPins, State.nextQueue, State.nextStimulus, hs]

/-- The selector has no bit for `rd_addr` (R58). -/
theorem fetch_withPins_rdAddr (a : Half) (c : State) :
    (c.withPins { c.pins with rdAddr := a }).fetch = c.fetch := rfl

/-- Settles O35: `rd_addr` neither selects the row nor is read by it, so the row's next state has the new address and the port the new answer. -/
theorem readAddressHasNoSideEffect : Obligations.ReadAddressHasNoSideEffect := by
  intro s x xs a t hs h
  obtain ⟨hc, u, hu, rfl⟩ := step_exec h
  have hrow := exec_withPins (p := { s.sample.pins with rdAddr := a }) rfl hu
  rw [← fetch_withPins_rdAddr a, ← sample_of_rdAddr a hs] at hrow
  have hpins : u.pins = s.sample.pins := (rowStep_of_exec hu).outside.2.1
  rw [drive_pins, hpins]
  exact ⟨_, step_of_row (s := { s with script := { x with rdAddr := a } :: xs }) hc hrow⟩

end Sys2Proof.Machine
end

section
/-! PROOFS. The statements about the step selector: its decoder against the operation map and the encoder (30_encoding.md R58 to R61). -/

namespace Sys2Proof

/-! ### The decoder by the bits of the selector (R61) -/

section

variable {p : Params} {x : Selector}

theorem decodeSel_rst (hr : x.rst = true) : decodeSel p x = .reset := by
  simp [decodeSel, hr]

theorem decodeSel_idle_byte (hr : x.rst = false) (hv : x.rxv = true) (hs : x.stField = 0#3) :
    decodeSel p x = if x.rxData = p.marker0 then .idleM0 x.rxData else .idleSkip x.rxData := by
  simp [decodeSel, hr, hs, hv]

theorem decodeSel_idle_silent (hr : x.rst = false) (hv : x.rxv = false) (hs : x.stField = 0#3) :
    decodeSel p x = .idleWait := by
  simp [decodeSel, hr, hs, hv]

theorem decodeSel_gotM0_byte (hr : x.rst = false) (hv : x.rxv = true) (hs : x.stField = 1#3) :
    decodeSel p x = if x.rxData = p.marker1 then .gotM1 x.rxData else .gotFail x.rxData := by
  simp [decodeSel, hr, hs, hv]

theorem decodeSel_gotM0_silent (hr : x.rst = false) (hv : x.rxv = false) (hs : x.stField = 1#3) :
    decodeSel p x = .gotWait := by
  simp [decodeSel, hr, hs, hv]

theorem decodeSel_hdr_byte (hr : x.rst = false) (hv : x.rxv = true) (hs : x.stField = 2#3) (hc : x.hcnt ≠ 3#2) :
    decodeSel p x = .hdrByte x.rxData := by
  simp [decodeSel, hr, hs, hv, hc]

theorem decodeSel_hdr_last (hr : x.rst = false) (hv : x.rxv = true) (hs : x.stField = 2#3) (hc : x.hcnt = 3#2) :
    decodeSel p x =
      if x.lenR.toNat = p.frameLen then .hdrAccept x.rxData
      else if x.lenR.toNat ≤ p.discardCeil.toNat then .hdrMismatch x.rxData
      else .hdrTooLarge x.rxData := by
  by_cases ha : x.lenR.toNat = p.frameLen
  · simp [decodeSel, hr, hs, hv, hc, classify, ha]
  · by_cases hm : x.lenR.toNat ≤ p.discardCeil.toNat <;> simp [decodeSel, hr, hs, hv, hc, classify, ha, hm]

theorem decodeSel_hdr_silent (hr : x.rst = false) (hv : x.rxv = false) (hs : x.stField = 2#3) :
    decodeSel p x = if x.tmo then .hdrTimeout else .hdrWait := by
  simp [decodeSel, hr, hs, hv]

theorem decodeSel_payload_byte (hr : x.rst = false) (hv : x.rxv = true) (hs : x.stField = 3#3) :
    decodeSel p x = if x.cnt.toNat = p.frameLen - 1 then .payCommit x.rxData else .payByte x.rxData := by
  simp [decodeSel, hr, hs, hv]

theorem decodeSel_payload_silent (hr : x.rst = false) (hv : x.rxv = false) (hs : x.stField = 3#3) :
    decodeSel p x = if x.tmo then .payTimeout else .payWait := by
  simp [decodeSel, hr, hs, hv]

theorem decodeSel_discard_byte (hr : x.rst = false) (hv : x.rxv = true) (hs : x.stField = 4#3) :
    decodeSel p x = if x.cnt = 1#16 then .discDone x.rxData else .discByte x.rxData := by
  simp [decodeSel, hr, hs, hv]

theorem decodeSel_discard_silent (hr : x.rst = false) (hv : x.rxv = false) (hs : x.stField = 4#3) :
    decodeSel p x = if x.tmo then .discTimeout else .discWait := by
  simp [decodeSel, hr, hs, hv]

theorem decodeSel_render (hr : x.rst = false) (hs : x.stField = 5#3) :
    decodeSel p x = if x.tick then .renderRelease else .renderHold := by
  simp [decodeSel, hr, hs]

theorem decodeSel_hold (hr : x.rst = false) (hs : x.stField = 6#3) :
    decodeSel p x = if x.tick then .holdRelease else .holdHold := by
  simp [decodeSel, hr, hs]

theorem decodeSel_reserved (hr : x.rst = false) (hs : x.stField = 7#3) : decodeSel p x = .reservedState := by
  simp [decodeSel, hr, hs]

theorem decodeSel_mem_selInstrs (p : Params) (x : Selector) : decodeSel p x ∈ selInstrs x.rxData := by
  unfold decodeSel
  repeat' split
  all_goals simp [selInstrs]

/-! ### The rows that apply (R58 to R60) -/

/-- The operation has a row of R60, and the row applies to the selector. -/
def Instr.Applies (p : Params) (x : Selector) (i : Instr) : Prop :=
  ∃ r, rowOf i = some r ∧ r.applies p x = true

/-- A row applies when its pair matches and its guard holds. -/
theorem Instr.Applies.of_row {i : Instr} {r : Row} (hi : rowOf i = some r) (hsel : x.sel &&& r.mask = r.mtch)
    (hg : r.guard.holds p x = true) : i.Applies p x :=
  ⟨r, hi, by rw [Row.applies, hg, decide_eq_true hsel]; rfl⟩

theorem Instr.Applies.row {i : Instr} (h : i.Applies p x) :
    ∃ r, rowOf i = some r ∧ x.sel &&& r.mask = r.mtch ∧ r.guard.holds p x = true := by
  obtain ⟨r, hi, ha⟩ := h
  rw [Row.applies, Bool.and_eq_true, decide_eq_true_eq] at ha
  exact ⟨r, hi, ha⟩

/-- Of two operations, the one the condition picks applies. -/
theorem Instr.Applies.ite {c : Prop} [Decidable c] {i j : Instr} (hi : c → i.Applies p x)
    (hj : ¬ c → j.Applies p x) : (if c then i else j).Applies p x := by
  split
  next h => exact hi h
  next h => exact hj h

/-- The decoder's row applies: inside the group of the state field, a byte row by its guard and another row by its bits alone. -/
theorem decodeSel_applies (p : Params) (x : Selector) : (decodeSel p x).Applies p x := by
  cases hr : x.rst with
  | true =>
    rw [decodeSel_rst hr]
    exact .of_row rfl ((sel_reset_iff x).mpr hr) rfl
  | false =>
  have hbyte {c : BitVec 3} (hv : x.rxv = true) (hs : x.stField = c) := (sel_byte_iff x c).mpr ⟨hr, hv, hs⟩
  have htimeout {c : BitVec 3} (hv : x.rxv = false) (hs : x.stField = c) (ht : x.tmo = true) :=
    (sel_timeout_iff x c).mpr ⟨hr, hv, ht, hs⟩
  have hwait {c : BitVec 3} (hv : x.rxv = false) (hs : x.stField = c) (ht : ¬ x.tmo = true) :=
    (sel_armedWait_iff x c).mpr ⟨hr, hv, Bool.eq_false_iff.mpr ht, hs⟩
  have hrelease {c : BitVec 3} (hs : x.stField = c) (ht : x.tick = true) := (sel_release_iff x c).mpr ⟨hr, ht, hs⟩
  have hhold {c : BitVec 3} (hs : x.stField = c) (ht : ¬ x.tick = true) :=
    (sel_hold_iff x c).mpr ⟨hr, Bool.eq_false_iff.mpr ht, hs⟩
  obtain hs | hs | hs | hs | hs | hs | hs | hs := stField_cases x
  · cases hv : x.rxv with
    | true =>
      rw [decodeSel_idle_byte hr hv hs]
      exact .ite (fun h => .of_row rfl (hbyte hv hs) (decide_eq_true h))
        (fun h => .of_row rfl (hbyte hv hs) (decide_eq_true h))
    | false =>
      rw [decodeSel_idle_silent hr hv hs]
      exact .of_row rfl ((sel_scanWait_iff x _).mpr ⟨hr, hv, hs⟩) rfl
  · cases hv : x.rxv with
    | true =>
      rw [decodeSel_gotM0_byte hr hv hs]
      exact .ite (fun h => .of_row rfl (hbyte hv hs) (decide_eq_true h))
        (fun h => .of_row rfl (hbyte hv hs) (decide_eq_true h))
    | false =>
      rw [decodeSel_gotM0_silent hr hv hs]
      exact .of_row rfl ((sel_scanWait_iff x _).mpr ⟨hr, hv, hs⟩) rfl
  · cases hv : x.rxv with
    | true =>
      by_cases hc : x.hcnt = 3#2
      · rw [decodeSel_hdr_last hr hv hs hc]
        refine .ite (fun hl => .of_row rfl (hbyte hv hs) ?_) (fun hne =>
          .ite (fun hl => .of_row rfl (hbyte hv hs) ?_) (fun hl => .of_row rfl (hbyte hv hs) ?_))
        · simp [Guard.holds, hc, classify_eq_accept, hl]
        · simp [Guard.holds, hc, classify_eq_mismatch, hne, hl]
        · simp [Guard.holds, hc, classify_eq_tooLarge, hne, Nat.not_le.mp hl]
      · rw [decodeSel_hdr_byte hr hv hs hc]
        exact .of_row rfl (hbyte hv hs) (decide_eq_true hc)
    | false =>
      rw [decodeSel_hdr_silent hr hv hs]
      exact .ite (fun ht => .of_row rfl (htimeout hv hs ht) rfl) (fun ht => .of_row rfl (hwait hv hs ht) rfl)
  · cases hv : x.rxv with
    | true =>
      rw [decodeSel_payload_byte hr hv hs]
      exact .ite (fun h => .of_row rfl (hbyte hv hs) (decide_eq_true h))
        (fun h => .of_row rfl (hbyte hv hs) (decide_eq_true h))
    | false =>
      rw [decodeSel_payload_silent hr hv hs]
      exact .ite (fun ht => .of_row rfl (htimeout hv hs ht) rfl) (fun ht => .of_row rfl (hwait hv hs ht) rfl)
  · cases hv : x.rxv with
    | true =>
      rw [decodeSel_discard_byte hr hv hs]
      exact .ite (fun h => .of_row rfl (hbyte hv hs) (decide_eq_true h))
        (fun h => .of_row rfl (hbyte hv hs) (decide_eq_true h))
    | false =>
      rw [decodeSel_discard_silent hr hv hs]
      exact .ite (fun ht => .of_row rfl (htimeout hv hs ht) rfl) (fun ht => .of_row rfl (hwait hv hs ht) rfl)
  · rw [decodeSel_render hr hs]
    exact .ite (fun ht => .of_row rfl (hrelease hs ht) rfl) (fun ht => .of_row rfl (hhold hs ht) rfl)
  · rw [decodeSel_hold hr hs]
    exact .ite (fun ht => .of_row rfl (hrelease hs ht) rfl) (fun ht => .of_row rfl (hhold hs ht) rfl)
  · rw [decodeSel_reserved hr hs]
    exact .of_row rfl ((sel_reserved_iff x _).mpr ⟨hr, hs⟩) rfl

/-- An operation whose row applies is what the decoder picks: the row's pair fixes the state field and the bits that choose inside its group, its guard the rest. -/
theorem Instr.Applies.decodeSel_eq {i : Instr} (h : i.Applies p x) (hi : i ∈ selInstrs x.rxData) :
    decodeSel p x = i := by
  obtain ⟨r, hrow, hsel, hg⟩ := h.row
  cases i
  case' idleM0 b | idleSkip b | gotM1 b | gotFail b | hdrByte b | hdrAccept b | hdrMismatch b | hdrTooLarge b
    | payByte b | payCommit b | discByte b | discDone b => obtain rfl : b = x.rxData := by simpa [selInstrs] using hi
  all_goals cases hrow
  case reset => exact decodeSel_rst ((sel_reset_iff x).mp hsel)
  case idleM0 =>
    obtain ⟨hr, hv, hs⟩ := (sel_byte_iff x 0#3).mp hsel
    exact (decodeSel_idle_byte hr hv hs).trans (if_pos (of_decide_eq_true hg))
  case idleSkip =>
    obtain ⟨hr, hv, hs⟩ := (sel_byte_iff x 0#3).mp hsel
    exact (decodeSel_idle_byte hr hv hs).trans (if_neg (of_decide_eq_true hg))
  case idleWait =>
    obtain ⟨hr, hv, hs⟩ := (sel_scanWait_iff x 0#3).mp hsel
    exact decodeSel_idle_silent hr hv hs
  case gotM1 =>
    obtain ⟨hr, hv, hs⟩ := (sel_byte_iff x 1#3).mp hsel
    exact (decodeSel_gotM0_byte hr hv hs).trans (if_pos (of_decide_eq_true hg))
  case gotFail =>
    obtain ⟨hr, hv, hs⟩ := (sel_byte_iff x 1#3).mp hsel
    exact (decodeSel_gotM0_byte hr hv hs).trans (if_neg (of_decide_eq_true hg))
  case gotWait =>
    obtain ⟨hr, hv, hs⟩ := (sel_scanWait_iff x 1#3).mp hsel
    exact decodeSel_gotM0_silent hr hv hs
  case hdrByte =>
    obtain ⟨hr, hv, hs⟩ := (sel_byte_iff x 2#3).mp hsel
    exact decodeSel_hdr_byte hr hv hs (of_decide_eq_true hg)
  case hdrAccept =>
    obtain ⟨hr, hv, hs⟩ := (sel_byte_iff x 2#3).mp hsel
    simp only [Guard.holds, Bool.and_eq_true, decide_eq_true_eq, classify_eq_accept] at hg
    obtain ⟨hc, hl⟩ := hg
    rw [decodeSel_hdr_last hr hv hs hc, if_pos hl]
  case hdrMismatch =>
    obtain ⟨hr, hv, hs⟩ := (sel_byte_iff x 2#3).mp hsel
    simp only [Guard.holds, Bool.and_eq_true, decide_eq_true_eq, classify_eq_mismatch] at hg
    obtain ⟨hc, hne, hl⟩ := hg
    rw [decodeSel_hdr_last hr hv hs hc, if_neg hne, if_pos hl]
  case hdrTooLarge =>
    obtain ⟨hr, hv, hs⟩ := (sel_byte_iff x 2#3).mp hsel
    simp only [Guard.holds, Bool.and_eq_true, decide_eq_true_eq, classify_eq_tooLarge] at hg
    obtain ⟨hc, hne, hl⟩ := hg
    rw [decodeSel_hdr_last hr hv hs hc, if_neg hne, if_neg (Nat.not_le.mpr hl)]
  case hdrTimeout =>
    obtain ⟨hr, hv, ht, hs⟩ := (sel_timeout_iff x 2#3).mp hsel
    exact (decodeSel_hdr_silent hr hv hs).trans (if_pos ht)
  case hdrWait =>
    obtain ⟨hr, hv, ht, hs⟩ := (sel_armedWait_iff x 2#3).mp hsel
    exact (decodeSel_hdr_silent hr hv hs).trans (if_neg (ne_true_of_eq_false ht))
  case payByte =>
    obtain ⟨hr, hv, hs⟩ := (sel_byte_iff x 3#3).mp hsel
    exact (decodeSel_payload_byte hr hv hs).trans (if_neg (of_decide_eq_true hg))
  case payCommit =>
    obtain ⟨hr, hv, hs⟩ := (sel_byte_iff x 3#3).mp hsel
    exact (decodeSel_payload_byte hr hv hs).trans (if_pos (of_decide_eq_true hg))
  case payTimeout =>
    obtain ⟨hr, hv, ht, hs⟩ := (sel_timeout_iff x 3#3).mp hsel
    exact (decodeSel_payload_silent hr hv hs).trans (if_pos ht)
  case payWait =>
    obtain ⟨hr, hv, ht, hs⟩ := (sel_armedWait_iff x 3#3).mp hsel
    exact (decodeSel_payload_silent hr hv hs).trans (if_neg (ne_true_of_eq_false ht))
  case discByte =>
    obtain ⟨hr, hv, hs⟩ := (sel_byte_iff x 4#3).mp hsel
    exact (decodeSel_discard_byte hr hv hs).trans (if_neg (of_decide_eq_true hg))
  case discDone =>
    obtain ⟨hr, hv, hs⟩ := (sel_byte_iff x 4#3).mp hsel
    exact (decodeSel_discard_byte hr hv hs).trans (if_pos (of_decide_eq_true hg))
  case discTimeout =>
    obtain ⟨hr, hv, ht, hs⟩ := (sel_timeout_iff x 4#3).mp hsel
    exact (decodeSel_discard_silent hr hv hs).trans (if_pos ht)
  case discWait =>
    obtain ⟨hr, hv, ht, hs⟩ := (sel_armedWait_iff x 4#3).mp hsel
    exact (decodeSel_discard_silent hr hv hs).trans (if_neg (ne_true_of_eq_false ht))
  case renderRelease =>
    obtain ⟨hr, ht, hs⟩ := (sel_release_iff x 5#3).mp hsel
    exact (decodeSel_render hr hs).trans (if_pos ht)
  case renderHold =>
    obtain ⟨hr, ht, hs⟩ := (sel_hold_iff x 5#3).mp hsel
    exact (decodeSel_render hr hs).trans (if_neg (ne_true_of_eq_false ht))
  case holdRelease =>
    obtain ⟨hr, ht, hs⟩ := (sel_release_iff x 6#3).mp hsel
    exact (decodeSel_hold hr hs).trans (if_pos ht)
  case holdHold =>
    obtain ⟨hr, ht, hs⟩ := (sel_hold_iff x 6#3).mp hsel
    exact (decodeSel_hold hr hs).trans (if_neg (ne_true_of_eq_false ht))
  case reservedState =>
    obtain ⟨hr, hs⟩ := (sel_reserved_iff x 7#3).mp hsel
    exact decodeSel_reserved hr hs

end

/-! ### The encoder's words -/

/-- The encoder's word meets its operation's row, for every operation (Laws/PerInstr.lean). -/
theorem encodeMeetsRow (i : Instr) : Laws.EncodeMeetsRow.Statement i := by
  cases i with
  | reset => exact Laws.EncodeMeetsRow.reset
  | idleM0 b => exact Laws.EncodeMeetsRow.idleM0 b
  | idleSkip b => exact Laws.EncodeMeetsRow.idleSkip b
  | idleWait => exact Laws.EncodeMeetsRow.idleWait
  | gotM1 b => exact Laws.EncodeMeetsRow.gotM1 b
  | gotFail b => exact Laws.EncodeMeetsRow.gotFail b
  | gotWait => exact Laws.EncodeMeetsRow.gotWait
  | hdrByte b => exact Laws.EncodeMeetsRow.hdrByte b
  | hdrAccept b => exact Laws.EncodeMeetsRow.hdrAccept b
  | hdrMismatch b => exact Laws.EncodeMeetsRow.hdrMismatch b
  | hdrTooLarge b => exact Laws.EncodeMeetsRow.hdrTooLarge b
  | hdrTimeout => exact Laws.EncodeMeetsRow.hdrTimeout
  | hdrWait => exact Laws.EncodeMeetsRow.hdrWait
  | payByte b => exact Laws.EncodeMeetsRow.payByte b
  | payCommit b => exact Laws.EncodeMeetsRow.payCommit b
  | payTimeout => exact Laws.EncodeMeetsRow.payTimeout
  | payWait => exact Laws.EncodeMeetsRow.payWait
  | discByte b => exact Laws.EncodeMeetsRow.discByte b
  | discDone b => exact Laws.EncodeMeetsRow.discDone b
  | discTimeout => exact Laws.EncodeMeetsRow.discTimeout
  | discWait => exact Laws.EncodeMeetsRow.discWait
  | renderRelease => exact Laws.EncodeMeetsRow.renderRelease
  | renderHold => exact Laws.EncodeMeetsRow.renderHold
  | holdRelease => exact Laws.EncodeMeetsRow.holdRelease
  | holdHold => exact Laws.EncodeMeetsRow.holdHold
  | reservedState => exact Laws.EncodeMeetsRow.reservedState
  | frontRead addr => exact Laws.EncodeMeetsRow.frontRead addr

theorem applies_of_encode {p : Params} {x : Selector} {i : Instr} (hwf : i.wf p = true)
    (he : encode p i = .sel x) : i.Applies p x := by
  have h := encodeMeetsRow i p hwf
  rwa [he] at h

theorem eq_frontRead_of_encode {p : Params} {addr : Half} {i : Instr} (hwf : i.wf p = true)
    (he : encode p i = .rdport addr) : i = .frontRead addr := by
  have h := encodeMeetsRow i p hwf
  rw [he] at h
  exact h.2

/-- The word of an operation offers the byte that the operation consumes. -/
theorem mem_selInstrs_of_encode {p : Params} {x : Selector} {i : Instr} (he : encode p i = .sel x) :
    i ∈ selInstrs x.rxData := by
  cases i
  case frontRead addr => cases he
  all_goals
    cases he
    simp [selInstrs]

/-! ### The statements -/

/-- Settles O3: the word's row is the operation's and applies to it, so it is what the decoder picks; FRONT_READ's word is its address. -/
theorem decodeOfEncodeIsTheInstruction : Obligations.DecodeOfEncodeIsTheInstruction := by
  intro p i hwf
  cases he : encode p i with
  | sel x => exact (applies_of_encode hwf he).decodeSel_eq (mem_selInstrs_of_encode he)
  | rdport addr => exact (eq_frontRead_of_encode hwf he).symm

/-- Settles O1: the decoder's row applies, and any operation whose row applies is the decoder's. -/
theorem selectorHasExactlyOneRow : Obligations.SelectorHasExactlyOneRow := by
  intro p x
  refine ⟨decodeSel_applies p x, decodeSel_mem_selInstrs p x, fun i hi r hr ha => ?_⟩
  have happ : i.Applies p x := ⟨r, hr, ha⟩
  exact (happ.decodeSel_eq hi).symm

/-- Settles O2: the decoder's equations, state by state. -/
theorem selectorBitsPickTheRow : Obligations.SelectorBitsPickTheRow := by
  intro p x
  refine ⟨decodeSel_rst, fun hr => ⟨fun hs => ?idle, fun hs => ?gotM0, fun hs => ?hdr, fun hs => ?payload,
    fun hs => ?discard, decodeSel_render hr, decodeSel_hold hr, decodeSel_reserved hr⟩⟩
  case idle => exact ⟨fun hv => decodeSel_idle_byte hr hv hs, fun hv => decodeSel_idle_silent hr hv hs⟩
  case gotM0 => exact ⟨fun hv => decodeSel_gotM0_byte hr hv hs, fun hv => decodeSel_gotM0_silent hr hv hs⟩
  case hdr =>
    exact ⟨fun hv => decodeSel_hdr_byte hr hv hs, fun hv => decodeSel_hdr_last hr hv hs,
      fun hv => decodeSel_hdr_silent hr hv hs⟩
  case payload => exact ⟨fun hv => decodeSel_payload_byte hr hv hs, fun hv => decodeSel_payload_silent hr hv hs⟩
  case discard => exact ⟨fun hv => decodeSel_discard_byte hr hv hs, fun hv => decodeSel_discard_silent hr hv hs⟩

/-- Settles O4: the decoder evaluated on the seven words. -/
theorem operationMapWordsDecode : Obligations.OperationMapWordsDecode := by
  refine ⟨?_, ?_, ?_, ?_, ?_, ?_, ?_⟩ <;> decide

end Sys2Proof
end

section
/-! PROOFS. The statements about the step, the stimulus line of a byte, and the frame that is received and shown (30_encoding.md R53, R54, R58, R63, R64). -/

namespace Sys2Proof.Machine

/-! ### The step (R58, R63) -/

theorem exec_fetch_ne_refused (c : State) (r : Refusal) : exec c.fetch c ≠ .refused r := by
  obtain ⟨u, hu⟩ | ⟨-, -, hf⟩ | ⟨-, -, -, hf⟩ := exec_fetch_cases c
  · rw [hu]; nofun
  · rw [hf]; nofun
  · rw [hf]; nofun

/-- Settles O7: the selected row is `fetch` of the sampled state, and its three outcomes are the step's. -/
theorem stepRunsSelectedRowBesideThePort : Obligations.StepRunsSelectedRowBesideThePort := by
  intro s hc
  exact ⟨fun t ht => step_of_row hc ht, fun f hf => step_of_fault hc hf, exec_fetch_ne_refused s.sample⟩

/-! ### A stimulus line of a byte (R64, R113 (e)) -/

/-- The stimulus of the line `B v`: the byte alone, at the current `now_ms`. -/
def byteStimulus (v : Byte) (s : State) : Stimulus :=
  { rst := false, tick := false, arrive := [v], nowMs := s.pins.nowMs, rdAddr := 0#16 }

/-- The state in which the line `B v` steps. -/
def State.withByte (v : Byte) (s : State) : State := { s with script := byteStimulus v s :: s.script }

theorem runLine_byte_of_ready {s : State} (v : Byte) (hr : s.st.ready = true) (hq : s.rxQueue = []) :
    runLine (.byte v) s = step (s.withByte v) := by
  simp only [runLine, hr, Bool.true_or, if_true, stepUnder, hq, State.withByte, byteStimulus]

theorem runLine_byte_of_waiting {s : State} (v : Byte) (hs : s.st = .render ∨ s.st = .hold) :
    runLine (.byte v) s = .refused .illFormedStimulus := by
  obtain hs | hs := hs <;> simp [runLine, SyncState.ready, hs]

theorem ready_of_legal {st : SyncState} (hl : st ≠ .reserved) (hr : st ≠ .render) (hh : st ≠ .hold) :
    st.ready = true := by
  cases st <;> simp_all [SyncState.ready]

theorem StateInv.withByte {s : State} (hi : StateInv s) (v : Byte) : StateInv (s.withByte v) :=
  hi.of_sameCount ⟨rfl, rfl, rfl, rfl⟩ rfl rfl rfl

theorem sample_withByte_rxQueue {s : State} (v : Byte) (hq : s.rxQueue = []) :
    (s.withByte v).sample.rxQueue = [v] := by
  simp [State.withByte, State.nextQueue, State.nextStimulus, byteStimulus, hq]

/-- A reading state takes the byte of the line. -/
theorem take_withByte {s : State} (v : Byte) (hr : s.st.ready = true) : (s.withByte v).sample.take = true := by
  cases hq : s.rxQueue <;>
    simp [State.take, State.rxReady, State.withByte, byteStimulus, State.nextQueue, State.nextStimulus, hq, hr]

/-- Settles O41: outside RENDER and HOLD the line is a step of a state that meets the invariant and takes the offered byte. -/
theorem byteLineIsConsumedOrIllFormed : Obligations.ByteLineIsConsumedOrIllFormed := by
  refine fun s v hi hq => ⟨fun hnr hnh => ?_, runLine_byte_of_waiting v⟩
  have hr : s.st.ready = true := ready_of_legal hi.legal hnr hnh
  obtain ⟨t, ht⟩ := invariantStatesNeverStop _ (hi.withByte v)
  obtain ⟨-, hpins, -, -⟩ := step_outside ht
  obtain ⟨b, hrx, hqueue, hlast⟩ := (takeConsumesOneByte _ t ht).1 (take_withByte v hr)
  rw [sample_withByte_rxQueue v hq] at hqueue
  obtain ⟨rfl, hempty⟩ := List.cons.inj hqueue
  rw [runLine_byte_of_ready v hr hq]
  exact ⟨t, ht, hpins ▸ hrx, hempty.symm, by rw [hpins]; rfl, hlast⟩

/-! ### A payload is received (R86, R87) -/

/-- From `s` on, `payload` is received into the back buffer at offset `cnt`, and its last byte is the commit; `q` and the arrivals stay in the byte source. -/
structure PayloadShown (s t : State) (payload q : List Byte) : Prop where
  run : runSteps payload.length s = .next t
  queue : t.rxQueue = q ++ s.arrivals payload.length
  render : t.st = .render
  front : t.front = s.back
  hasFrame : t.hasFrame = true
  lastSeq : t.lastSeq = s.seqR
  event : t.out.ev = .frameReady
  stored : ∀ off : Half, s.cnt.toNat ≤ off.toNat → off.toNat < s.cfg.frameLen →
    payload[off.toNat - s.cnt.toNat]? = some (t.bufByte s.back off)
  kept : ∀ (k : BitVec 1) (off : Half), k ≠ s.back ∨ off.toNat < s.cnt.toNat → t.bufByte k off = s.bufByte k off

theorem offered_of_queue {s : State} {b : Byte} {q : List Byte} {n : Nat} (hok : s.cfg.ok = true)
    (hq : s.rxQueue = b :: q) (hn : s.noReset (n + 1)) : Offered s b (q ++ s.nextStimulus.arrive) :=
  ⟨hok, noReset_head hn, by rw [State.nextQueue, hq, List.cons_append]⟩

/-- A byte of the front buffer, or one before offset `cnt`, is not the one that a payload row stores. -/
theorem ne_target_of_kept {s : State} {k : BitVec 1} {off : Half} (h : k ≠ s.back ∨ off.toNat < s.cnt.toNat) :
    (k, off) ≠ (s.back, s.cnt) := by
  intro heq
  obtain ⟨rfl, rfl⟩ := Prod.mk.inj heq
  simp at h

/-- R87: the last byte of a payload. -/
theorem payloadShown_last {s : State} {b : Byte} {q : List Byte} (ho : Offered s b (q ++ s.nextStimulus.arrive))
    (hs : s.st = .payload) (hc : s.cnt.toNat + 1 = s.cfg.frameLen) : ∃ t, PayloadShown s t [b] q := by
  obtain ⟨t, ht, hqueue, hfront, hframe, hseq, hbyte, hbut, hst, hev⟩ := step_payCommit ho hs (by omega)
  refine ⟨t, runSteps_one s ▸ ht, ?_, hst, hfront, hframe, hseq, hev, fun off hle hlt => ?_, fun k off hko => ?_⟩
  · rw [hqueue, List.length_singleton, arrivals_step ht 0, arrivals_zero, List.append_nil]
  · obtain rfl : off = s.cnt := BitVec.eq_of_toNat_eq (by omega)
    rw [hbyte, Nat.sub_self]
    rfl
  · exact hbut k off (ne_target_of_kept hko)

/-- R86: a payload byte before the rest of the payload. -/
theorem PayloadShown.cons {s u t : State} {b : Byte} {q l : List Byte} (hu : step s = .next u)
    (hcnt : u.cnt.toNat = s.cnt.toNat + 1) (hroles : SameRoles s u) (hseq : u.seqR = s.seqR)
    (hbyte : u.bufByte s.back s.cnt = b) (hbut : SameBuffersBut s.back s.cnt s u)
    (h : PayloadShown u t l (q ++ s.nextStimulus.arrive)) : PayloadShown s t (b :: l) q := by
  have hback : u.back = s.back := by rw [State.back, hroles.1, State.back]
  have hcfg : u.cfg = s.cfg := step_cfg hu
  refine ⟨(runSteps_succ_of_step _ hu).trans h.run, ?_, h.render, h.front.trans hback, h.hasFrame,
    h.lastSeq.trans hseq, h.event, fun off hle hlt => ?_, fun k off hko => ?_⟩
  · rw [h.queue, List.length_cons, arrivals_step hu, List.append_assoc]
  · obtain heq | hgt := Nat.eq_or_lt_of_le hle
    · obtain rfl : s.cnt = off := BitVec.eq_of_toNat_eq heq
      rw [h.kept s.back s.cnt (.inr (by omega)), hbyte, Nat.sub_self]
      rfl
    · have hstored := h.stored off (by omega) (by rwa [hcfg])
      rw [hback, hcnt] at hstored
      have hindex : off.toNat - s.cnt.toNat = off.toNat - (s.cnt.toNat + 1) + 1 := by omega
      rw [← hstored, hindex, List.getElem?_cons_succ]
  · rw [h.kept k off (hko.imp (hback ▸ id) (by omega))]
    exact hbut k off (ne_target_of_kept hko)

/-- R86, R87: in PAYLOAD, the bytes that are still missing are received and the frame is shown, by induction on them. -/
theorem run_payload {s : State} {payload q : List Byte} (hok : s.cfg.ok = true) (hs : s.st = .payload)
    (hne : payload ≠ []) (hlen : s.cnt.toNat + payload.length = s.cfg.frameLen) (hq : s.rxQueue = payload ++ q)
    (hn : s.noReset payload.length) : ∃ t, PayloadShown s t payload q := by
  induction payload generalizing s q with
  | nil => exact absurd rfl hne
  | cons b l ih =>
    rw [List.length_cons] at hlen hn
    have ho : Offered s b (l ++ (q ++ s.nextStimulus.arrive)) := by
      rw [← List.append_assoc]
      exact offered_of_queue hok hq hn
    obtain rfl | hl := eq_or_ne l []
    · exact payloadShown_last ho hs hlen
    · have hpos := List.length_pos_iff.mpr hl
      obtain ⟨u, hu, hqueue, hroles, hbyte, hbut, hst, hcnt, hseq⟩ := step_payByte ho hs (by omega)
      have hmax := ((Params.ok_iff _).mp hok).2.1
      have hcnt' : u.cnt.toNat = s.cnt.toNat + 1 := by
        rw [hcnt]; exact BitVec.toNat_add_of_lt (by rw [BitVec.toNat_one (by decide)]; omega)
      have hcfg : u.cfg = s.cfg := step_cfg hu
      obtain ⟨t, ht⟩ := ih (by rwa [hcfg]) hst hl (by rw [hcfg]; omega) hqueue (noReset_step hu hn)
      exact ⟨t, .cons hu hcnt' hroles hseq hbyte hbut ht⟩

/-- R54, R78: from IDLE, the six header bytes that declare the expected length lead to PAYLOAD at count 0. -/
theorem run_acceptedHeader {s : State} {len seq : Half} {rest : List Byte} {n : Nat} (hok : s.cfg.ok = true)
    (hs : s.st = .idle) (hl : len.toNat = s.cfg.frameLen) (hq : s.rxQueue = wireHeader s.cfg len seq ++ rest)
    (hn : s.noReset n) (h5 : 5 < n) :
    ∃ u, RunsTo 6 s u rest ∧ u.st = .payload ∧ u.cnt = 0#16 ∧ u.seqR = seq := by
  obtain ⟨t, ht, hst, hcnt, hlen, hlow⟩ := run_header hok hs hq hn h5
  have hclass : classify t.cfg t.lenR = .accept := by rw [ht.cfg, hlen]; exact classify_eq_accept.mpr hl
  obtain ⟨u, hu, hpay, hzero, hseq⟩ := step_hdrAccept (ht.offered hok hn h5) hst hcnt hclass
  exact ⟨u, ht.snoc hu, hpay, hzero, hseq.trans (setHigh_highByte_of_lowByte hlow)⟩

/-- Settles O50: the header opens the payload in 6 steps, which is then received from count 0 to its commit. -/
theorem acceptedFrameIsShown : Obligations.AcceptedFrameIsShown := by
  intro s len seq payload rest hok hs hl hp hq hn
  have hf := ((Params.ok_iff _).mp hok).1
  rw [wireFrame, List.append_assoc] at hq
  obtain ⟨u, hu, hst, hcnt, hseq⟩ := run_acceptedHeader hok hs hl hq hn (by omega)
  have hqueue : u.rxQueue = payload ++ (rest ++ s.arrivals 6) := by rw [hu.queue, List.append_assoc]
  have hback : u.back = 1#1 - s.front := by rw [State.back, hu.roles.1]
  obtain ⟨t, ht⟩ := run_payload (hu.cfg ▸ hok) hst (List.length_pos_iff.mp (by omega))
    (by rw [hcnt, hu.cfg, hp]; exact Nat.zero_add _) hqueue (by rw [hp]; exact noReset_run hu.run hn)
  have hrun : runSteps (6 + s.cfg.frameLen) s = .next t := by
    rw [runSteps_add_of_run _ hu.run, ← hp]
    exact ht.run
  refine ⟨t, hrun, ht.render, ht.front.trans hback, ht.hasFrame, ht.lastSeq.trans hseq, ht.event,
    fun off hoff => ?_, fun off => ?_, ?_, runSteps_cfg hrun⟩
  · have hstored := ht.stored off (by rw [hcnt]; exact Nat.zero_le _) (by rwa [hu.cfg])
    rw [ht.front, ← hstored, hcnt]
    rfl
  · rw [ht.kept s.front off (.inl fun h => back_ne_front u (h.symm.trans hu.roles.1.symm)), hu.buffers]
  · rw [ht.queue, hp, List.append_assoc, arrivals_run hu.run]

end Sys2Proof.Machine
end

section
/-! PROOFS. The statements about the marker scan (40_marker_scan.md R69 to R75). -/

namespace Sys2Proof.Machine

theorem sameHeader_trans {a b c : State} (h : SameHeader a b) (h' : SameHeader b c) : SameHeader a c := by
  obtain ⟨hhcnt, hlen, hseq⟩ := h
  obtain ⟨hhcnt', hlen', hseq'⟩ := h'
  exact ⟨hhcnt'.trans hhcnt, hlen'.trans hlen, hseq'.trans hseq⟩

/-- Settles O57: the three bytes are the rows IDLE_M0, GOT_FAIL and IDLE_SKIP, none of which touches what is shown or the header. -/
theorem failedSecondByteIsNotTestedAgain : Obligations.FailedSecondByteIsNotTestedAgain := by
  intro s rest hok hs hne hq hn
  have r0 := RunsTo.zero s
  rw [hq] at r0
  obtain ⟨t1, k1, hgot, hhdr1⟩ := step_idleM0 (r0.offered hok hn (by decide)) hs
  have r1 := r0.snoc k1
  have hfail : s.cfg.marker0 ≠ t1.cfg.marker1 := by rwa [r1.cfg]
  obtain ⟨t2, k2, hidle, hhdr2⟩ := step_gotFail (r1.offered hok hn (by decide)) hgot hfail
  have r2 := r1.snoc k2
  have hskip : s.cfg.marker1 ≠ t2.cfg.marker0 := by rw [r2.cfg]; exact hne.symm
  obtain ⟨t, k3, hst, hhdr3⟩ := step_idleSkip (r2.offered hok hn (by decide)) hidle hskip
  have r3 := r2.snoc k3
  exact ⟨t, r3.run, hst, r3.roles, r3.buffers, sameHeader_trans hhdr1 (sameHeader_trans hhdr2 hhdr3), r3.queue⟩

/-- Settles O10: an offered byte is tested against `MARKER0` alone; each row's next state is its pseudocode. -/
theorem idleRows : Obligations.IdleRows := by
  refine fun s hs hr => ⟨fun b hx hb => ⟨?_, rfl⟩, fun b hx hb => ⟨?_, rfl⟩, fun hx => ⟨fetch_idle_none hr hs hx, rfl⟩⟩
  · rw [fetch_idle_byte hr hs hx, if_pos hb]
  · rw [fetch_idle_byte hr hs hx, if_neg hb]

/-- Settles O11: an offered byte is tested against `MARKER1` alone; each row's next state is its pseudocode. -/
theorem secondMarkerRows : Obligations.SecondMarkerRows := by
  refine fun s hs hr => ⟨fun b hx hb => ⟨?_, rfl⟩, fun b hx hb => ⟨?_, rfl⟩, fun hx => ⟨fetch_gotM0_none hr hs hx, rfl⟩⟩
  · rw [fetch_gotM0_byte hr hs hx, if_pos hb]
  · rw [fetch_gotM0_byte hr hs hx, if_neg hb]

end Sys2Proof.Machine
end

section
/-! PROOFS. The statements about the metadata read and the verdicts on the declared length (41_header_validate.md R76 to R84). -/

namespace Sys2Proof.Machine

/-! ### A wrong length within the ceiling (R79, R84, R90, R91) -/

/-- FSYNC has `n` bytes left to drop: it is back in IDLE, or in DISCARD with the count at `n` (R27). -/
def BytesToDrop (s : State) : Nat → Prop
  | 0 => s.st = .idle
  | n + 1 => s.st = .discard ∧ s.cnt.toNat = n + 1

/-- R79: from IDLE, the six header bytes that declare a wrong length within the ceiling leave that many bytes to drop. -/
theorem run_mismatchedHeader {s : State} {len seq : Half} {rest : List Byte} {n : Nat} (hok : s.cfg.ok = true)
    (hs : s.st = .idle) (hl : len.toNat ≠ s.cfg.frameLen) (hceil : len.toNat ≤ s.cfg.discardCeil.toNat)
    (hq : s.rxQueue = wireHeader s.cfg len seq ++ rest) (hn : s.noReset n) (h5 : 5 < n) :
    ∃ u, RunsTo 6 s u rest ∧ BytesToDrop u len.toNat := by
  obtain ⟨t, ht, hst, hcnt, hlen, -⟩ := run_header hok hs hq hn h5
  have hclass : classify t.cfg t.lenR = .mismatch := by
    rw [ht.cfg, hlen]; exact classify_eq_mismatch.mpr ⟨hl, hceil⟩
  obtain ⟨u, hu, hidle, hdiscard⟩ := step_hdrMismatch (ht.offered hok hn h5) hst hcnt hclass
  rw [hlen] at hidle hdiscard
  refine ⟨u, ht.snoc hu, ?_⟩
  cases hd : len.toNat with
  | zero => exact hidle (BitVec.eq_of_toNat_eq hd)
  | succ m =>
    have hne : len ≠ 0#16 := by rintro rfl; simp at hd
    obtain ⟨hst, hcnt⟩ := hdiscard hne
    exact ⟨hst, by rw [hcnt, hd]⟩

/-- R90, R91: an offered byte is dropped. -/
theorem step_bytesToDrop {s : State} {b : Byte} {q : List Byte} {n : Nat} (ho : Offered s b q)
    (hd : BytesToDrop s (n + 1)) : ∃ t, StepsTo s t q ∧ BytesToDrop t n := by
  obtain ⟨hs, hcnt⟩ := hd
  obtain ⟨t, ht, hidle, hdiscard⟩ := step_discard ho hs
  refine ⟨t, ht, ?_⟩
  cases n with
  | zero => exact hidle (BitVec.eq_of_toNat_eq hcnt)
  | succ m =>
    have hne : s.cnt ≠ 1#16 := by intro h; simp [h] at hcnt
    obtain ⟨hst, hc⟩ := hdiscard hne
    exact ⟨hst, by rw [hc]; bv_omega⟩

/-- R84: the bytes left to drop are dropped, by induction on them. -/
theorem run_bytesToDrop {s : State} {junk q : List Byte} (hok : s.cfg.ok = true) (hd : BytesToDrop s junk.length)
    (hq : s.rxQueue = junk ++ q) (hn : s.noReset junk.length) :
    ∃ t, RunsTo junk.length s t q ∧ t.st = .idle := by
  induction junk generalizing s q with
  | nil =>
    obtain rfl : s.rxQueue = q := hq
    exact ⟨s, RunsTo.zero s, hd⟩
  | cons b l ih =>
    rw [List.length_cons, Nat.add_comm] at hn ⊢
    have r0 := RunsTo.zero s
    rw [hq, List.cons_append] at r0
    obtain ⟨u, hu, hdrop⟩ := step_bytesToDrop (r0.offered hok hn (by omega)) hd
    have r1 := r0.snoc hu
    obtain ⟨t, ht, hidle⟩ := ih (r1.cfg ▸ hok) hdrop (r1.queue.trans (List.append_assoc ..)) (noReset_run r1.run hn)
    exact ⟨t, r1.append ht, hidle⟩

/-- Settles O53: the wrong header leaves as many bytes to drop as it declares, and from the IDLE behind them O50 shows the valid frame. -/
theorem mismatchedFrameIsDiscardedAndTheNextAccepted : Obligations.MismatchedFrameIsDiscardedAndTheNextAccepted := by
  intro s bad seq₁ len seq₂ junk payload rest hok hs hbad hceil hjunk hl hp hq hn
  rw [wireFrame, List.append_assoc] at hq
  obtain ⟨u, hu, hdrop⟩ := run_mismatchedHeader hok hs hbad hceil hq hn (by omega)
  have hqueue : u.rxQueue = junk ++ (wireFrame s.cfg len seq₂ payload ++ rest ++ s.arrivals 6) := by
    rw [hu.queue, List.append_assoc]
  have hnu : u.noReset junk.length := noReset_run hu.run (noReset_mono (by omega) hn)
  obtain ⟨v, hv, hidle⟩ := run_bytesToDrop (hu.cfg ▸ hok) (hjunk ▸ hdrop) hqueue hnu
  rw [hjunk] at hv
  have hr := hu.append hv
  have hvqueue : v.rxQueue = wireFrame v.cfg len seq₂ payload ++ (rest ++ s.arrivals (6 + bad.toNat)) := by
    rw [hr.queue, hr.cfg, List.append_assoc]
  obtain ⟨t, ht, hst, hfront, -, hseq, -, hbytes, -⟩ := acceptedFrameIsShown v len seq₂ payload _ (hr.cfg ▸ hok) hidle
    (hr.cfg ▸ hl) (hr.cfg ▸ hp) hvqueue (hr.cfg ▸ noReset_run hr.run hn)
  rw [hr.cfg] at ht hbytes
  exact ⟨⟨v, hr.run, hidle, hr.roles, hr.buffers, hr.queue⟩,
    ⟨t, (runSteps_add_of_run _ hr.run).trans ht, hst, hr.roles.1 ▸ hfront, hseq, hbytes⟩⟩

/-! ### A length above the ceiling (R80, R97, R98) -/

/-- R80: from IDLE, the six header bytes that declare a length above the ceiling lead to HOLD. -/
theorem run_tooLargeHeader {s : State} {len seq : Half} {rest : List Byte} {n : Nat} (hok : s.cfg.ok = true)
    (hs : s.st = .idle) (hl : len.toNat ≠ s.cfg.frameLen) (hceil : s.cfg.discardCeil.toNat < len.toNat)
    (hq : s.rxQueue = wireHeader s.cfg len seq ++ rest) (hn : s.noReset n) (h5 : 5 < n) :
    ∃ u, RunsTo 6 s u rest ∧ u.st = .hold ∧ u.out.ev = .lengthTooLarge := by
  obtain ⟨t, ht, hst, hcnt, hlen, -⟩ := run_header hok hs hq hn h5
  have hclass : classify t.cfg t.lenR = .tooLarge := by
    rw [ht.cfg, hlen]; exact classify_eq_tooLarge.mpr ⟨hl, hceil⟩
  obtain ⟨u, hu, hhold, hev⟩ := step_hdrTooLarge (ht.offered hok hn h5) hst hcnt hclass
  exact ⟨u, ht.snoc hu, hhold, hev⟩

/-- A run goes on by a step that consumes nothing: the arrivals stay in the byte source. -/
theorem RunsTo.snoc_unconsumed {k : Nat} {s t u : State} {q : List Byte} (h : RunsTo k s t q) (hu : step t = .next u)
    (hq : u.rxQueue = t.rxQueue ++ t.nextStimulus.arrive) (hr : SameRoles t u) (hb : SameBuffers t u) :
    RunsTo (k + 1) s u q where
  run := by rw [runSteps_add_of_run 1 h.run, runSteps_one, hu]
  queue := by rw [hq, h.queue, h.arrivals_succ, List.append_assoc]
  roles := sameRoles_trans h.roles hr
  buffers := sameBuffers_trans h.buffers hb

/-- R96, R98: RENDER and HOLD last as long as no tick comes, and consume nothing, by induction on the steps. -/
theorem run_withoutTick {k : Nat} {s : State} (hok : s.cfg.ok = true) (hs : s.st = .render ∨ s.st = .hold)
    (hn : s.noReset k) (ht : ∀ i < k, (s.stimulusAt i).tick = false) :
    ∃ t, RunsTo k s t s.rxQueue ∧ SameRegisters s t := by
  induction k with
  | zero => exact ⟨s, RunsTo.zero s, sameRegisters_refl s⟩
  | succ k ih =>
    obtain ⟨u, hu, hsame⟩ := ih (noReset_mono (Nat.le_succ k) hn) fun i hi => ht i (Nat.lt_succ_of_lt hi)
    have hlast := Nat.lt_succ_self k
    obtain ⟨t, hstep, hsame', hbuf, hq⟩ := step_hold (hu.cfg ▸ hok) (hu.stimulus ▸ hn k hlast) (hsame.1 ▸ hs)
      (hu.stimulus ▸ ht k hlast)
    have ⟨_, _, _, _, hroles⟩ := hsame'
    exact ⟨t, hu.snoc_unconsumed hstep hq hroles hbuf, sameRegisters_trans hsame hsame'⟩

/-- Settles O54: the header leads to HOLD, which lasts to the first tick; the step with the tick is HOLD_RELEASE. -/
theorem tooLargeHeaderHoldsUntilTick : Obligations.TooLargeHeaderHoldsUntilTick := by
  intro k s len seq rest hok hs hl hceil hq hn hquiet htick
  obtain ⟨u, hu, hhold, hev⟩ := run_tooLargeHeader hok hs hl hceil hq hn (by omega)
  have hsilent : ∀ i < k, (u.stimulusAt i).tick = false := fun i hi => by
    rw [stimulusAt_run hu.run]
    exact hquiet (6 + i) (by omega) (by omega)
  have hnu : u.noReset k := noReset_run hu.run (noReset_mono (Nat.le_succ _) hn)
  obtain ⟨v, hv, hsame⟩ := run_withoutTick (hu.cfg ▸ hok) (.inr hhold) hnu hsilent
  have hvhold : v.st = .hold := hsame.1.trans hhold
  have hr : RunsTo (6 + k) s v rest := hu.append (hu.queue ▸ hv)
  obtain ⟨t, hstep, hidle, hroles, hbuf, hqueue⟩ := step_release (hr.cfg ▸ hok)
    (hr.stimulus ▸ hn (6 + k) (Nat.lt_succ_self _)) (.inr hvhold) (hr.stimulus ▸ htick)
  have hend := hr.snoc_unconsumed hstep hqueue hroles hbuf
  exact ⟨⟨u, hu.run, hhold, hev⟩, ⟨v, hr.run, hvhold, hr.queue⟩,
    ⟨t, hend.run, hidle, hend.roles, hend.buffers, hend.queue⟩⟩

/-! ### The rows of HDR (R76, R78 to R82) -/

/-- R76: where metadata byte 0, 1 or 2 goes. -/
theorem captureMeta_eq (b : Byte) {s : State} (hc : s.hcnt ≠ 3#2) :
    captureMeta b s = { s with
      lenR :=
        if s.hcnt = 0#2 then s.lenR.extractLsb' 8 8 ++ b
        else if s.hcnt = 1#2 then b ++ s.lenR.extractLsb' 0 8
        else s.lenR
      seqR := if s.hcnt = 2#2 then s.seqR.extractLsb' 8 8 ++ b else s.seqR } := by
  have hcases : ∀ c : BitVec 2, c ≠ 3#2 → c = 0#2 ∨ c = 1#2 ∨ c = 2#2 := by decide
  rw [← setLow_eq_concat, ← setHigh_eq_concat, ← setLow_eq_concat]
  obtain h | h | h := hcases s.hcnt hc
  · simp [captureMeta, h, State.setLenR]
  · simp [captureMeta, h, State.setLenR]
  · simp [captureMeta, h, State.setSeqR]

/-- R78 to R80: metadata byte 3 is the high byte of `seq_r`. -/
theorem captureLast_eq (b : Byte) (s : State) :
    captureLast b s = { s with
      seqR := b ++ s.seqR.extractLsb' 0 8, tLast := s.pins.nowMs, rxQueue := s.rxQueue.tail } := by
  rw [← setHigh_eq_concat]
  rfl

/-- Settles O12: `hcnt` below 3 selects HDR_BYTE, and the byte goes where `captureMeta` puts it. -/
theorem metadataByteRow : Obligations.MetadataByteRow := by
  refine fun s b hs hr hx hc => ⟨fetch_hdr_byte hr hs hx hc, ?_⟩
  have hcapture := captureMeta_eq b (s := s.consume) hc
  simp only [exec, execHdrByte, hcapture]
  rfl

/-- Settles O13: the three verdicts are `classify`'s, each with its row. -/
theorem lengthVerdictRows : Obligations.LengthVerdictRows := by
  intro s b hs hr hx hc
  have hfetch := fetch_hdr_last hr hs hx hc
  refine ⟨fun hl => ?_, fun hl hceil => ?_, fun hl hceil => ?_⟩
  · rw [classify_eq_accept.mpr hl] at hfetch
    refine ⟨hfetch, ?_⟩
    simp only [exec, execHdrAccept, captureLast_eq]
    rfl
  · rw [classify_eq_mismatch.mpr ⟨hl, hceil⟩] at hfetch
    refine ⟨hfetch, fun hz => exec_hdrMismatch_eq_next.mpr (.inl ⟨hz, ?_⟩),
      fun hz => exec_hdrMismatch_eq_next.mpr (.inr ⟨hz, ?_⟩)⟩ <;>
    · rw [captureLast_eq]
      rfl
  · rw [classify_eq_tooLarge.mpr ⟨hl, hceil⟩] at hfetch
    refine ⟨hfetch, ?_⟩
    simp only [exec, execHdrTooLarge, captureLast_eq]
    rfl

/-- Settles O14: `tmo` decides between the two rows of silence. -/
theorem metadataSilenceRows : Obligations.MetadataSilenceRows := by
  intro s hs hr hx
  have hfetch := fetch_hdr_none hr hs hx
  refine ⟨fun ht => ⟨?_, rfl⟩, fun ht => ⟨?_, rfl⟩⟩
  · rw [hfetch, (tmo_eq_true_iff s).mpr ht]
    rfl
  · rw [hfetch, (tmo_eq_false_iff s).mpr ht]
    rfl

end Sys2Proof.Machine
end

section
/-! PROOFS. The statements about the payload read, the discard and the inter-byte timeout (42_payload_discard.md R85 to R94). -/

namespace Sys2Proof.Machine

/-! ### Silence up to the timeout (R85) -/

/-- A read that no byte and no reset reaches, while `now_ms` rises by 1 a step from `t_last` until `T_TIMEOUT_MS`. -/
structure SilentRead (s : State) : Prop where
  ok : s.cfg.ok = true
  armed : s.st = .hdr ∨ s.st = .payload ∨ s.st = .discard
  queue : s.rxQueue = []
  silent : ∀ i < s.cfg.timeoutMs.toNat, (s.stimulusAt i).rst = false ∧ (s.stimulusAt i).arrive = [] ∧
    (s.stimulusAt i).nowMs = s.tLast + BitVec.ofNat 32 (i + 1)

/-- `k` steps go from `s` to `u`, keep every register and byte, and leave nothing in the byte source. -/
structure QuietlyTo (k : Nat) (s u : State) : Prop where
  run : runSteps k s = .next u
  registers : SameRegisters s u
  buffers : SameBuffers s u
  queue : u.rxQueue = []

theorem QuietlyTo.stimulus {k : Nat} {s u : State} (h : QuietlyTo k s u) : u.nextStimulus = s.stimulusAt k := by
  rw [nextStimulus_eq, stimulusAt_run h.run, Nat.add_zero]

theorem QuietlyTo.cfg {k : Nat} {s u : State} (h : QuietlyTo k s u) : u.cfg = s.cfg := runSteps_cfg h.run

section
variable {k : Nat} {s u : State} (hs : SilentRead s) (hk : k < s.cfg.timeoutMs.toNat) (hu : QuietlyTo k s u)
include hs hk hu

/-- What selects a row of silence in step `k` of a silent read, but for the timeout condition. -/
theorem SilentRead.selected : u.cfg.ok = true ∧ u.nextStimulus.rst = false ∧
    (u.st = .hdr ∨ u.st = .payload ∨ u.st = .discard) ∧ u.nextQueue = [] := by
  obtain ⟨hrst, harrive, -⟩ := hs.silent k hk
  obtain ⟨hst, -⟩ := hu.registers
  exact ⟨hu.cfg ▸ hs.ok, hu.stimulus ▸ hrst, hst ▸ hs.armed, by
    rw [State.nextQueue, hu.queue, hu.stimulus, harrive, List.append_nil]⟩

/-- In step `k` of a silent read the silence is `k + 1` long: no wrap of `now_ms` shows in the difference. -/
theorem SilentRead.elapsed : u.sample.elapsed.toNat = k + 1 := by
  obtain ⟨-, -, hnow⟩ := hs.silent k hk
  obtain ⟨-, -, -, hlast, -⟩ := hu.registers
  have helapsed : u.sample.elapsed = BitVec.ofNat 32 (k + 1) := by
    rw [State.elapsed, sample_pins_nowMs, sample_tLast, hu.stimulus, hnow, hlast, add_sub_cancel_left]
  have hlt := s.cfg.timeoutMs.isLt
  rw [helapsed, BitVec.toNat_ofNat, Nat.mod_eq_of_lt (by omega)]

/-- The timeout condition first holds in the last step of the silence. -/
theorem SilentRead.tmo : u.sample.tmo = decide (s.cfg.timeoutMs.toNat ≤ k + 1) := by
  rw [State.tmo, hs.elapsed hk hu, sample_cfg, hu.cfg]

end

/-- R82, R89, R94: before the silence reaches `T_TIMEOUT_MS` each step waits, by induction on the steps. -/
theorem SilentRead.waits {s : State} (hs : SilentRead s) {k : Nat} (hk : k < s.cfg.timeoutMs.toNat) :
    ∃ u, QuietlyTo k s u := by
  induction k with
  | zero => exact ⟨s, rfl, sameRegisters_refl s, fun _ _ => rfl, hs.queue⟩
  | succ k ih =>
    have hk' : k < s.cfg.timeoutMs.toNat := Nat.lt_of_succ_lt hk
    obtain ⟨u, hu⟩ := ih hk'
    obtain ⟨hok, hrst, harmed, hqueue⟩ := hs.selected hk' hu
    have hearly : u.sample.tmo = false := by
      rw [hs.tmo hk' hu]
      exact decide_eq_false (Nat.not_le.mpr hk)
    obtain ⟨t, ht, hregs, hbufs, hempty⟩ := step_armedWait hok hrst harmed hqueue hearly
    exact ⟨t, by rw [runSteps_add_of_run 1 hu.run, runSteps_one, ht], sameRegisters_trans hu.registers hregs,
      sameBuffers_trans hu.buffers hbufs, hempty⟩

/-- R81, R88, R93, R106: the step in which the silence reaches `T_TIMEOUT_MS` abandons the read. -/
theorem SilentRead.abandoned {s : State} (hs : SilentRead s) :
    ∃ t, runSteps s.cfg.timeoutMs.toNat s = .next t ∧ t.st = .idle ∧ t.out.ev = .transportTimeout ∧
      SameRoles s t ∧ SameBuffers s t := by
  obtain ⟨-, -, hpos⟩ := (Params.ok_iff s.cfg).mp hs.ok
  obtain ⟨k, hT⟩ : ∃ k, s.cfg.timeoutMs.toNat = k + 1 := ⟨_, (Nat.sub_add_cancel hpos).symm⟩
  have hk : k < s.cfg.timeoutMs.toNat := by omega
  obtain ⟨u, hu⟩ := hs.waits hk
  obtain ⟨hok, hrst, harmed, hqueue⟩ := hs.selected hk hu
  have hdue : u.sample.tmo = true := by
    rw [hs.tmo hk hu]
    exact decide_eq_true hT.le
  obtain ⟨t, ht, hidle, hev, hroles, hbufs⟩ := step_armedTimeout hok hrst harmed hqueue hdue
  obtain ⟨-, -, -, -, huroles⟩ := hu.registers
  exact ⟨t, by rw [hT, runSteps_add_of_run 1 hu.run, runSteps_one, ht], hidle, hev,
    sameRoles_trans huroles hroles, sameBuffers_trans hu.buffers hbufs⟩

/-- Settles O55: `elapsed` counts the silent steps, so each step before the last waits and the last one times out. -/
theorem silenceAbandonsTheRead : Obligations.SilenceAbandonsTheRead := by
  intro s hok harmed hqueue hsilent
  have hs : SilentRead s := ⟨hok, harmed, hqueue, hsilent⟩
  refine ⟨fun k hk => ?_, hs.abandoned⟩
  obtain ⟨u, hu⟩ := hs.waits hk
  exact ⟨u, hu.run, hu.registers, hu.buffers⟩

/-! ### When a timeout fires (R85) -/

theorem timed_iff (x : SyncState) : x.timed = true ↔ x = .hdr ∨ x = .payload ∨ x = .discard := by
  cases x <;> simp [SyncState.timed]

/-- The timeout row alone emits TRANSPORT_TIMEOUT, and what selects it excludes every other row. -/
theorem RowStep.timeout_iff {c u : State} (h : RowStep c u) :
    u.out.ev = .transportTimeout ↔
      c.st.timed = true ∧ c.pins.rst = false ∧ c.pins.rx = none ∧ c.tmo = true := by
  cases h
  case timeout hr hs hx ht => simp [hr, hs, hx, ht]
  case waitTimed ht => simp [ht]
  case reset hr => simp [hr]
  case waitScan hs _ => obtain hs | hs := hs <;> simp [hs, SyncState.timed]
  case release hs _ => obtain hs | hs := hs <;> simp [hs, SyncState.timed]
  case hold hs _ => obtain hs | hs := hs <;> simp [hs, SyncState.timed]
  all_goals simp [*]

/-- Settles O30: the rows say when a timeout fires, and an armed state is ready for an offered byte. -/
theorem timeoutFiresExactlyOnSilence : Obligations.TimeoutFiresExactlyOnSilence := by
  intro s t h
  refine ⟨?_, fun hs hr b hx => ?_⟩
  · obtain ⟨-, u, hu, rfl⟩ := step_next h
    exact hu.timeout_iff.trans (and_congr (timed_iff s.st) (and_congr_right' (and_congr_right' (tmo_eq_true_iff _))))
  · have hready : s.sample.rxReady = true := (rxReady_iff _).mpr ⟨.inr (.inr hs), hr⟩
    exact (offeredByteStaysUntilReady.2 s t b h hx).1 hready

/-! ### The payload byte that is stored (R86, R87) -/

/-- Both payload rows are one write to the back buffer at offset `cnt`, which names a byte. -/
theorem payloadRow_mem {i : Instr} {b : Byte} {s t : State} (hi : i = .payByte b ∨ i = .payCommit b)
    (h : exec i s = .next t) :
    s.cnt.toNat < s.cfg.frameLen ∧ t.mem = Memory.write s.mem (bufAddr s.back s.cnt) b ∧ t.epoch = s.epoch := by
  obtain rfl | rfl := hi
  · obtain ⟨hlt, rfl⟩ := exec_payByte_eq_next.mp h
    exact ⟨hlt, rfl, rfl⟩
  · obtain ⟨hlt, rfl⟩ := exec_payCommit_eq_next.mp h
    exact ⟨hlt, rfl, rfl⟩

/-- Settles O26: a byte reads as it did before a write to another address. -/
theorem payloadRowsStoreOneByte : Obligations.PayloadRowsStoreOneByte := by
  intro i b s t hi h
  obtain ⟨hlt, hmem, hepoch⟩ := payloadRow_mem hi h
  refine ⟨hlt, bufByte_of_write_same s t _ _ b hmem, fun k off hne => ?_⟩
  refine bufByte_of_write_other s t _ _ b hmem hepoch k off fun heq => ?_
  obtain ⟨rfl, rfl⟩ := Prod.mk.inj heq
  exact hne rfl

/-- What a payload row stores, in the terms of the row statements. -/
theorem payloadRow_bytes {i : Instr} {b : Byte} {s t : State} (hi : i = .payByte b ∨ i = .payCommit b)
    (h : exec i s = .next t) : t.bufByte s.back s.cnt = b ∧ SameBuffersBut s.back s.cnt s t := by
  obtain ⟨-, hbyte, hother⟩ := payloadRowsStoreOneByte i b s t hi h
  exact ⟨hbyte, fun k off hne => hother k off (bufAddr_ne _ _ _ _ hne)⟩

/-- Settles O15: an offset before the last one selects PAY_BYTE, whose store is O26's. -/
theorem payloadByteRow : Obligations.PayloadByteRow := by
  intro s b hs hr hx hc
  have hne : s.cnt.toNat ≠ s.cfg.frameLen - 1 := hc.ne
  have hexec := exec_payByte_eq_next (b := b).mpr ⟨(by omega : s.cnt.toNat < s.cfg.frameLen), rfl⟩
  obtain ⟨hbyte, hother⟩ := payloadRow_bytes (.inl rfl) hexec
  exact ⟨(fetch_payload_byte hr hs hx).trans (if_neg hne), _, hexec, hbyte, hother, rfl, rfl, rfl, rfl, rfl,
    ⟨rfl, rfl, rfl⟩, ⟨rfl, rfl, rfl⟩, ⟨rfl, rfl, rfl, rfl, rfl⟩⟩

/-- Settles O16: the last offset selects PAY_COMMIT, whose store is O26's and which swaps the roles. -/
theorem payloadCommitRow : Obligations.PayloadCommitRow := by
  intro s b hs hr hx hf hc
  have hexec := exec_payCommit_eq_next (b := b).mpr ⟨(by omega : s.cnt.toNat < s.cfg.frameLen), rfl⟩
  obtain ⟨hbyte, hother⟩ := payloadRow_bytes (.inr rfl) hexec
  exact ⟨(fetch_payload_byte hr hs hx).trans (if_pos hc), _, hexec, hbyte, hother, rfl, rfl, rfl, rfl, rfl, rfl, rfl,
    ⟨rfl, rfl, rfl⟩, rfl, ⟨rfl, rfl, rfl, rfl, rfl⟩⟩

/-! ### The rows of silence and of the discard (R88 to R94) -/

/-- Where `tmo` decides between two rows, the silence's length does. -/
theorem fetch_by_elapsed {s : State} {i j : Instr} (h : s.fetch = if s.tmo then i else j) :
    (s.cfg.timeoutMs.toNat ≤ (s.pins.nowMs - s.tLast).toNat → s.fetch = i) ∧
    ((s.pins.nowMs - s.tLast).toNat < s.cfg.timeoutMs.toNat → s.fetch = j) := by
  refine ⟨fun ht => ?_, fun ht => ?_⟩
  · rw [h, (tmo_eq_true_iff s).mpr ht]
    rfl
  · rw [h, (tmo_eq_false_iff s).mpr ht]
    rfl

/-- Settles O17: the silence's length decides between the two rows. -/
theorem payloadSilenceRows : Obligations.PayloadSilenceRows := by
  intro s hs hr hx
  obtain ⟨hdue, hearly⟩ := fetch_by_elapsed (fetch_payload_none hr hs hx)
  exact ⟨fun ht => ⟨hdue ht, rfl⟩, fun ht => ⟨hearly ht, rfl⟩⟩

/-- Settles O19: the count decides between the two rows of a byte, the silence's length between those without one. -/
theorem discardRows : Obligations.DiscardRows := by
  intro s hs hr
  have hsilence := fun hx => fetch_by_elapsed (fetch_discard_none hr hs hx)
  refine ⟨fun b hx hc => ⟨?_, exec_discByte b s⟩, fun b hx hc => ⟨?_, rfl⟩,
    fun hx ht => ⟨(hsilence hx).1 ht, rfl⟩, fun hx ht => ⟨(hsilence hx).2 ht, rfl⟩⟩
  · have hne : s.cnt ≠ 1#16 := by
      intro h
      simp [h] at hc
    exact (fetch_discard_byte hr hs hx).trans (if_neg hne)
  · exact (fetch_discard_byte hr hs hx).trans (if_pos hc)

end Sys2Proof.Machine
end

section
/-! PROOFS. The statements about the wait states, the role swap and the read port (43_swap_readport.md R95 to R104). -/

namespace Sys2Proof.Machine

/-! ### Two commits (R87, R104) -/

/-- R87: the commit row alone emits FRAME_READY; it leads from PAYLOAD to RENDER. -/
theorem RowStep.st_of_frameReady {c u : State} (h : RowStep c u) (hev : u.out.ev = .frameReady) :
    c.st = .payload ∧ u.st = .render := by
  cases h
  case payCommit hs _ _ _ => exact ⟨hs, rfl⟩
  all_goals cases hev

theorem step_st_of_frameReady {s t : State} (h : step s = .next t) (hev : t.out.ev = .frameReady) :
    s.st = .payload ∧ t.st = .render := by
  obtain ⟨-, u, hu, rfl⟩ := step_next h
  exact hu.st_of_frameReady hev

/-- Settles O47: the first commit leads to RENDER, which lasts without tick and reset, and no commit starts in RENDER. -/
theorem commitsAreSeparatedByATick : Obligations.CommitsAreSeparatedByATick := by
  intro k s u t hsu hu hut ht
  by_contra! hquiet
  obtain ⟨-, hrender⟩ := step_st_of_frameReady hsu hu
  obtain ⟨v, huv, hvt⟩ := runSteps_last hut
  have hok : u.cfg.ok = true := step_cfg hsu ▸ (step_next hsu).1
  obtain ⟨w, hw, hst, -⟩ := run_withoutTick hok (.inl hrender)
    (fun j hj => Bool.eq_false_iff.mpr (hquiet j hj).2) fun j hj => Bool.eq_false_iff.mpr (hquiet j hj).1
  obtain rfl : v = w := Host.Outcome.next.inj (huv.symm.trans hw.run)
  obtain ⟨hpayload, -⟩ := step_st_of_frameReady hvt ht
  cases hpayload.symm.trans (hst.trans hrender)

/-! ### The shown frame (R101) -/

/-- R38: without a reset, `front` moves in the commit row alone. -/
theorem RowStep.front {c u : State} (h : RowStep c u) (hr : c.pins.rst = false) (hev : u.out.ev ≠ .frameReady) :
    u.front = c.front := by
  cases h
  case reset hr' => rw [hr] at hr'; cases hr'
  case payCommit => exact absurd rfl hev
  all_goals simp

theorem step_front {s t : State} (h : step s = .next t) (hr : s.nextStimulus.rst = false)
    (hev : t.out.ev ≠ .frameReady) : t.front = s.front := by
  obtain ⟨-, u, hu, rfl⟩ := step_next h
  exact hu.front hr hev

/-- R38, R101: a step without a commit and a reset keeps what the front buffer holds. -/
theorem step_shown {s t : State} (h : step s = .next t) (hr : s.nextStimulus.rst = false)
    (hev : t.out.ev ≠ .frameReady) (off : Half) : t.bufByte t.front off = s.bufByte s.front off := by
  obtain ⟨-, -, -, hbytes⟩ := onlyTheCommitMovesTheFront s t h
  rw [step_front h hr hev]
  exact hbytes hr off

/-- Settles O48, by induction on the run's last step. -/
theorem shownFrameIsStable : Obligations.ShownFrameIsStable := by
  intro k s t h hn hev
  induction k generalizing t with
  | zero => cases h; exact ⟨rfl, fun _ => rfl⟩
  | succ k ih =>
    obtain ⟨u, hu, ht⟩ := runSteps_last h
    have hlast := Nat.lt_succ_self k
    have hrst : u.nextStimulus.rst = false := by
      rw [nextStimulus_eq, stimulusAt_run hu]
      exact hn k hlast
    obtain ⟨hfront, hbytes⟩ := ih u hu (noReset_mono hlast.le hn) fun j hj => hev j (hj.trans hlast)
    have hno := hev k hlast t h
    exact ⟨(step_front ht hrst hno).trans hfront, fun off => (step_shown ht hrst hno off).trans (hbytes off)⟩

/-! ### What `tick` acts on (R19, R104) -/

/-- Another `tick` in the next stimulus changes that sampled input alone. -/
theorem sample_of_tick {s : State} {x : Stimulus} {xs : List Stimulus} (b : Bool) (hs : s.script = x :: xs) :
    State.sample { s with script := { x with tick := b } :: xs } =
      s.sample.withPins { s.sample.pins with tick := b } := by
  simp [State.sample, State.withPins, State.nextQueue, State.nextStimulus, hs]

/-- R61: the bit of `tick` selects between rows in RENDER and HOLD only. -/
theorem fetch_withPins_tick (b : Bool) {c : State} (hrender : c.st ≠ .render) (hhold : c.st ≠ .hold) :
    (c.withPins { c.pins with tick := b }).fetch = c.fetch := by
  simp only [State.fetch, decodeSel, selector_rst, selector_stField, selector_rxv, selector_tmo, selector_tick,
    selector_rxData, selector_hcnt, selector_lenR, selector_cnt]
  have hst : (c.withPins { c.pins with tick := b }).st = c.st := rfl
  rw [hst]
  cases hs : c.st
  case render => exact absurd hs hrender
  case hold => exact absurd hs hhold
  all_goals rfl

/-- Settles O34: outside RENDER and HOLD `tick` neither selects the row nor is read by it or by the port. -/
theorem tickActsOnlyInTheWaitStates : Obligations.TickActsOnlyInTheWaitStates := by
  intro s x xs b t hrender hhold hs h
  obtain ⟨hc, u, hu, rfl⟩ := step_exec h
  have hrow := exec_withPins (p := { s.sample.pins with tick := b }) rfl hu
  rw [← fetch_withPins_tick b (c := s.sample) hrender hhold, ← sample_of_tick b hs] at hrow
  have hpins : u.pins = s.sample.pins := (rowStep_of_exec hu).outside.2.1
  rw [step_of_row (s := { s with script := { x with tick := b } :: xs }) hc hrow, sample_of_tick b hs, drive_pins,
    hpins]
  rfl

/-! ### The rows of the wait states and the read port (R95 to R100) -/

/-- Settles O21: in each wait state `tick` alone decides between the row that releases and the row that holds. -/
theorem waitStateRows : Obligations.WaitStateRows := by
  refine fun s hr => ⟨fun hs ht => ⟨?_, rfl⟩, fun hs ht => ⟨?_, rfl⟩, fun hs ht => ⟨?_, rfl⟩, fun hs ht => ⟨?_, rfl⟩⟩
  · rw [fetch_render hr hs, ht, if_pos rfl]
  · rw [fetch_render hr hs, ht, if_neg Bool.false_ne_true]
  · rw [fetch_hold hr hs, ht, if_pos rfl]
  · rw [fetch_hold hr hs, ht, if_neg Bool.false_ne_true]

/-- R100: FRONT_READ at an address that names no byte is refused. -/
theorem exec_frontRead_out_of_range {s : State} {addr : Half} (h : s.cfg.frameLen ≤ addr.toNat) :
    exec (.frontRead addr) s = .refused .readOutOfRange := by
  simp [exec, execFrontRead, readPort_out_of_range h]

/-- Settles O22: the address decides whether the read goes on, and every step shows its answer. -/
theorem frontReadRow : Obligations.FrontReadRow :=
  ⟨fun _ _ => ⟨fun hlt => exec_frontRead_eq_next.mpr ⟨hlt, rfl⟩, exec_frontRead_out_of_range⟩,
    fun s t h => (readPortShowsTheStateBeforeTheStep s t h).1⟩

/-! ### The renderer's contract (R102) -/

/-- R6, R102: no channel reaches past the frame's pixels. -/
theorem channelOffset_add_lt {p : Params} {c : Fin 2} {j : Nat} (h : j < channelSize p c) :
    channelOffset p c + j < p.totalPixels := by
  rw [← channelOf_in_range_iff, channelOf_offset_add h]
  exact h

/-- R55: a colour's offset names a byte, and its 16 bits hold it. -/
theorem colourOffset_toNat {p : Params} {c : Fin 2} {j k : Nat} (hok : p.ok = true) (hj : j < channelSize p c)
    (hk : k < 3) :
    (colourOffset p c j k).toNat = 3 * (channelOffset p c + j) + k ∧ 3 * (channelOffset p c + j) + k < p.frameLen := by
  obtain ⟨-, hmax, -⟩ := (Params.ok_iff p).mp hok
  have hpixel := channelOffset_add_lt hj
  have hlt : 3 * (channelOffset p c + j) + k < p.frameLen := by
    rw [Params.frameLen]
    omega
  exact ⟨by rw [colourOffset, BitVec.toNat_ofNat, Nat.mod_eq_of_lt (by omega)], hlt⟩

/-- Settles O58: each colour's offset names the payload's byte at the same index. -/
theorem pixelsAreThePayloadTriples : Obligations.PixelsAreThePayloadTriples := by
  intro s payload c j hok _ hbytes hj
  have hcolour : ∀ k < 3, payload[3 * (channelOffset s.cfg c + j) + k]? =
      some (s.bufByte s.front (colourOffset s.cfg c j k)) := by
    intro k hk
    obtain ⟨hoff, hlt⟩ := colourOffset_toNat hok hj hk
    rw [← hbytes _ (hoff ▸ hlt), hoff]
  exact ⟨hcolour 0 (by decide), hcolour 1 (by decide), hcolour 2 (by decide)⟩

end Sys2Proof.Machine
end

section
/-! PROOFS. The statements about the reserved state and the states that wait without limit (60_exceptions.md R112, R121). -/

namespace Sys2Proof.Machine

/-! ### The reserved state (R112) -/

/-- The read port's answer is no register of a reset. -/
theorem IsReset.drive {s : State} (h : IsReset s) (d : Option Byte) : IsReset (s.drive d) := { h with }

/-- R123, R124: a step with `rst` is RESET in every state, the reserved one too. -/
theorem step_reset {s : State} (hok : s.cfg.ok = true) (hr : s.nextStimulus.rst = true) :
    ∃ t, step s = .next t ∧ IsReset t := by
  have hrow : exec s.sample.fetch s.sample = .next (s.sample.resetRegisters.emit .none) := by
    rw [fetch_reset (s := s.sample) hr]
    rfl
  exact ⟨_, step_of_row hok hrow, (isReset_resetRegisters (c := s.sample) hok).drive _⟩

/-- R112: in the reserved state a step without `rst` has no next state. -/
theorem step_reserved {s : State} (hok : s.cfg.ok = true) (hs : s.st = .reserved) (hr : s.nextStimulus.rst = false) :
    step s = .fault .reservedState := by
  refine step_of_fault hok ?_
  rw [fetch_reserved (s := s.sample) hr hs]
  rfl

/-- Settles O24: `rst` decides between RESERVED_STATE, whose fault is the step's, and RESET. -/
theorem reservedStateFaultsUntilReset : Obligations.ReservedStateFaultsUntilReset :=
  ⟨fun _ hs hr => ⟨fetch_reserved hr hs, rfl⟩, fun _ => step_reserved, fun _ hok _ => step_reset hok⟩

/-! ### Waiting without limit (R121) -/

theorem arrivals_eq_nil {s : State} {k : Nat} (h : ∀ i < k, (s.stimulusAt i).arrive = []) : s.arrivals k = [] := by
  simpa [State.arrivals] using h

/-- A quiet run goes on by a step that keeps every register and byte and leaves nothing in the byte source. -/
theorem QuietlyTo.snoc {k : Nat} {s u t : State} (h : QuietlyTo k s u) (ht : step u = .next t)
    (hr : SameRegisters u t) (hb : SameBuffers u t) (hq : t.rxQueue = []) : QuietlyTo (k + 1) s t where
  run := by rw [runSteps_add_of_run 1 h.run, runSteps_one, ht]
  registers := sameRegisters_trans h.registers hr
  buffers := sameBuffers_trans h.buffers hb
  queue := hq

/-- R74, R75: IDLE and GOT_M0 last as long as no byte comes, by induction on the steps. -/
theorem run_scanSilence {k : Nat} {s : State} (hok : s.cfg.ok = true) (hs : s.st = .idle ∨ s.st = .gotM0)
    (hq : s.rxQueue = []) (hn : s.noReset k) (ha : ∀ i < k, (s.stimulusAt i).arrive = []) :
    ∃ t, QuietlyTo k s t := by
  induction k with
  | zero => exact ⟨s, rfl, sameRegisters_refl s, fun _ _ => rfl, hq⟩
  | succ k ih =>
    obtain ⟨u, hu⟩ := ih (noReset_mono (Nat.le_succ k) hn) fun i hi => ha i (Nat.lt_succ_of_lt hi)
    have hlast := Nat.lt_succ_self k
    have hempty : u.nextQueue = [] := by
      rw [State.nextQueue, hu.queue, hu.stimulus, ha k hlast, List.append_nil]
    obtain ⟨hst, -⟩ := hu.registers
    obtain ⟨t, ht, hregs, hbufs, hqt⟩ := step_scanSilence (hu.cfg ▸ hok) (hu.stimulus ▸ hn k hlast)
      (hst ▸ hs) hempty
    exact ⟨t, hu.snoc ht hregs hbufs hqt⟩

/-- Settles O49: the scan waits for a byte, with nothing to consume; RENDER and HOLD wait for a tick, and the arrivals pile up. -/
theorem waitingChangesNothing : Obligations.WaitingChangesNothing := by
  rintro k s hok hn (⟨hs, hq, ha⟩ | ⟨hs, ht⟩)
  · obtain ⟨t, h⟩ := run_scanSilence hok hs hq hn ha
    exact ⟨t, h.run, h.registers, h.buffers, by rw [h.queue, hq, arrivals_eq_nil ha, List.append_nil]⟩
  · obtain ⟨t, h, hregs⟩ := run_withoutTick hok hs hn ht
    exact ⟨t, h.run, hregs, h.buffers, h.queue⟩

end Sys2Proof.Machine
end

section
/-! PROOFS. The statement about a frame delivered at any pace (70_reset_and_hazards.md R131): what a state has received of a frame, kept by every step in which the sender meets its duty. -/

namespace Sys2Proof.Machine

/-! ### What a buffer holds -/

/-- Buffer `k` holds `bytes` from offset 0 on. -/
def HoldsBytes (s : State) (k : BitVec 1) (bytes : List Byte) : Prop :=
  ∀ off : Half, off.toNat < bytes.length → bytes[off.toNat]? = some (s.bufByte k off)

/-- A byte stored behind those a buffer holds extends them. -/
theorem HoldsBytes.snoc {s t : State} {k : BitVec 1} {off : Half} {bytes : List Byte} {b : Byte}
    (h : HoldsBytes s k bytes) (hoff : off.toNat = bytes.length) (hb : t.bufByte k off = b)
    (hbut : SameBuffersBut k off s t) : HoldsBytes t k (bytes ++ [b]) := by
  intro o ho
  rw [List.length_append, List.length_singleton] at ho
  obtain hlt | heq := Nat.lt_succ_iff_lt_or_eq.mp ho
  · have hne : (k, o) ≠ (k, off) := by
      intro heq
      obtain ⟨-, rfl⟩ := Prod.mk.inj heq
      omega
    rw [List.getElem?_append_left hlt, h o hlt, hbut k o hne]
  · obtain rfl : o = off := BitVec.eq_of_toNat_eq (heq.trans hoff.symm)
    rw [hb, heq, List.getElem?_concat_length]

/-! ### What has been received of a frame (R53, R54) -/

/-- How far a wire frame has been received: `v` has consumed its bytes up to the last argument, which it expects next. In HDR the fields hold the metadata bytes consumed so far, in PAYLOAD the back buffer holds the payload bytes consumed so far. -/
inductive Expects (p : Params) (len seq : Half) (payload : List Byte) (v : State) : List Byte → Prop
  | marker0 (hs : v.st = .idle) : Expects p len seq payload v (wireFrame p len seq payload)
  | marker1 (hs : v.st = .gotM0) : Expects p len seq payload v
      (p.marker1 :: lowByte len :: highByte len :: lowByte seq :: highByte seq :: payload)
  | lenLow (hs : v.st = .hdr) (hc : v.hcnt = 0#2) : Expects p len seq payload v
      (lowByte len :: highByte len :: lowByte seq :: highByte seq :: payload)
  | lenHigh (hs : v.st = .hdr) (hc : v.hcnt = 1#2) (hlow : lowByte v.lenR = lowByte len) :
      Expects p len seq payload v (highByte len :: lowByte seq :: highByte seq :: payload)
  | seqLow (hs : v.st = .hdr) (hc : v.hcnt = 2#2) (hlen : v.lenR = len) :
      Expects p len seq payload v (lowByte seq :: highByte seq :: payload)
  | seqHigh (hs : v.st = .hdr) (hc : v.hcnt = 3#2) (hlen : v.lenR = len) (hlow : lowByte v.seqR = lowByte seq) :
      Expects p len seq payload v (highByte seq :: payload)
  | payload (got todo : List Byte) (hs : v.st = .payload) (hpay : got ++ todo = payload)
      (hcnt : v.cnt.toNat = got.length) (hseq : v.seqR = seq) (hgot : HoldsBytes v v.back got) :
      Expects p len seq payload v todo

section
variable {p : Params} {len seq : Half} {payload todo : List Byte} {v : State}

/-- The states that receive a frame: the scan, and the armed reads of the header and the payload. -/
theorem Expects.reading (h : Expects p len seq payload v todo) :
    (v.st = .idle ∨ v.st = .gotM0) ∨ v.st = .hdr ∨ v.st = .payload ∨ v.st = .discard := by
  cases h <;> simp [*]

/-- What a state has received lies in its registers and buffers. -/
theorem Expects.of_same {w : State} (h : Expects p len seq payload v todo) (hr : SameRegisters v w)
    (hb : SameBuffers v w) : Expects p len seq payload w todo := by
  obtain ⟨hst, ⟨hhcnt, hlenR, hseqR⟩, hcnt, -, hfront, -⟩ := hr
  cases h with
  | marker0 hs => exact .marker0 (hst.trans hs)
  | marker1 hs => exact .marker1 (hst.trans hs)
  | lenLow hs hc => exact .lenLow (hst.trans hs) (hhcnt.trans hc)
  | lenHigh hs hc hlow => exact .lenHigh (hst.trans hs) (hhcnt.trans hc) (hlenR ▸ hlow)
  | seqLow hs hc hlen => exact .seqLow (hst.trans hs) (hhcnt.trans hc) (hlenR.trans hlen)
  | seqHigh hs hc hlen hlow =>
    exact .seqHigh (hst.trans hs) (hhcnt.trans hc) (hlenR.trans hlen) (hseqR ▸ hlow)
  | payload got todo hs hpay hn hq hgot =>
    refine .payload got todo (hst.trans hs) hpay (hcnt ▸ hn) (hseqR.trans hq) fun off hoff => ?_
    rw [hgot off hoff, State.back, State.back, hfront, hb]

/-- R76: the metadata byte of `hcnt` 0, 1 or 2 goes into its field. -/
theorem Expects.hdrByte {b : Byte} {q : List Byte} (h : Expects p len seq payload v (b :: todo)) (ho : Offered v b q)
    (hs : v.st = .hdr) (hc : v.hcnt ≠ 3#2) :
    ∃ w, step v = .next w ∧ SameRoles v w ∧ Expects p len seq payload w todo := by
  obtain ⟨w, hw, hst, hcnt, hl, hq⟩ := step_hdrByte ho hs hc
  refine ⟨w, hw.run, hw.roles, ?_⟩
  cases h with
  | marker0 hs' | marker1 hs' | payload _ _ hs' => cases hs.symm.trans hs'
  | lenLow _ hc' =>
    refine .lenHigh hst (by rw [hcnt, hc']; rfl) ?_
    rw [hl]
    simp [captureMeta, hc', setLow]
  | lenHigh _ hc' hlow =>
    refine .seqLow hst (by rw [hcnt, hc']; rfl) ?_
    rw [hl]
    simp [captureMeta, hc', setHigh_highByte_of_lowByte hlow]
  | seqLow _ hc' hlen =>
    refine .seqHigh hst (by rw [hcnt, hc']; rfl) ?_ ?_
    · rw [hl]
      simp [captureMeta, hc', hlen]
    · rw [hq]
      simp [captureMeta, hc', setLow]
  | seqHigh _ hc' => exact absurd hc' hc

/-- R70, R72, R76, R78, R86: an expected byte that is not the frame's last is received. -/
theorem Expects.consume {b : Byte} {q : List Byte} (h : Expects p len seq payload v (b :: todo)) (ho : Offered v b q)
    (hp : v.cfg = p) (hlen : len.toNat = p.frameLen) (hpay : payload.length = p.frameLen) (htodo : todo ≠ []) :
    ∃ w, step v = .next w ∧ SameRoles v w ∧ Expects p len seq payload w todo := by
  subst hp
  cases h with
  | marker0 hs =>
    obtain ⟨w, hw, hst, -⟩ := step_idleM0 ho hs
    exact ⟨w, hw.run, hw.roles, .marker1 hst⟩
  | marker1 hs =>
    obtain ⟨w, hw, hst, hcnt⟩ := step_gotM1 ho hs
    exact ⟨w, hw.run, hw.roles, .lenLow hst hcnt⟩
  | lenLow hs hc => exact (Expects.lenLow hs hc).hdrByte ho hs (by rw [hc]; decide)
  | lenHigh hs hc hlow => exact (Expects.lenHigh hs hc hlow).hdrByte ho hs (by rw [hc]; decide)
  | seqLow hs hc hl => exact (Expects.seqLow hs hc hl).hdrByte ho hs (by rw [hc]; decide)
  | seqHigh hs hc hl hlow =>
    obtain ⟨w, hw, hst, hcnt, hseq⟩ := step_hdrAccept ho hs hc (classify_eq_accept.mpr (hl ▸ hlen))
    refine ⟨w, hw.run, hw.roles, .payload [] payload hst rfl (by rw [hcnt]; rfl) ?_ nofun⟩
    exact hseq.trans (setHigh_highByte_of_lowByte hlow)
  | payload got _ hs hsplit hcnt hseq hgot =>
    have hpos := List.length_pos_iff.mpr htodo
    have hlength := congrArg List.length hsplit
    rw [List.length_append, List.length_cons] at hlength
    obtain ⟨w, hw, -, hroles, hbyte, hbut, hst, hc, hseqR⟩ := step_payByte ho hs (by omega)
    have hmax := ((Params.ok_iff _).mp ho.ok).2.1
    have hback : w.back = v.back := by rw [State.back, hroles.1, State.back]
    refine ⟨w, hw, hroles, .payload (got ++ [b]) todo hst ?_ ?_ (hseqR.trans hseq) ?_⟩
    · rw [List.append_assoc, List.singleton_append, hsplit]
    · rw [hc, List.length_append, List.length_singleton, ← hcnt]
      exact BitVec.toNat_add_of_lt (by rw [BitVec.toNat_one (by decide)]; omega)
    · rw [hback]
      exact hgot.snoc hcnt hbyte hbut

/-- R87: the frame's last byte, which only a payload byte can be, is the commit. -/
theorem Expects.commit {b : Byte} {q : List Byte} (h : Expects p len seq payload v [b]) (ho : Offered v b q)
    (hp : v.cfg = p) (hpay : payload.length = p.frameLen) :
    ∃ t, step v = .next t ∧ t.st = .render ∧ t.front = v.back ∧ t.hasFrame = true ∧ t.lastSeq = seq ∧
      t.out.ev = .frameReady ∧ HoldsBytes t t.front payload := by
  subst hp
  have hpos := ((Params.ok_iff _).mp ho.ok).1
  cases h with
  | seqHigh => exact absurd hpay (Nat.ne_of_lt hpos)
  | payload got _ hs hsplit hcnt hseq hgot =>
    subst hsplit
    rw [List.length_append, List.length_singleton] at hpay
    obtain ⟨t, ht, -, hfront, hframe, hlast, hbyte, hbut, hst, hev⟩ := step_payCommit ho hs (by omega)
    exact ⟨t, ht, hst, hfront, hframe, hlast.trans hseq, hev, hfront ▸ hgot.snoc hcnt hbyte hbut⟩

/-- R74, R75, R82, R89: in a step that takes no byte, a sender that meets its duty leaves the reception as it is. -/
theorem Expects.pause {w : State} (h : Expects p len seq payload v todo) (hw : step v = .next w)
    (hr : v.nextStimulus.rst = false) (hd : SenderDuty v.sample) (ht : v.sample.take = false) :
    SameRoles v w ∧ Expects p len seq payload w todo := by
  have hready : v.sample.rxReady = true := (rxReady_iff _).mpr ⟨by simpa [or_assoc] using h.reading, hr⟩
  have hx : v.sample.pins.rx = none := by
    by_contra hne
    obtain ⟨b, hb⟩ := Option.ne_none_iff_exists'.mp hne
    rw [take_of_offered hb, hready] at ht
    cases ht
  have hempty : v.nextQueue = [] := List.head?_eq_none_iff.mp hx
  have hok := (step_next hw).1
  have hsilent : ∃ t, step v = .next t ∧ SameRegisters v t ∧ SameBuffers v t ∧ t.rxQueue = [] := by
    obtain hscan | harmed := h.reading
    · exact step_scanSilence hok hr hscan hempty
    · have hearly : v.sample.tmo = false :=
        Bool.eq_false_iff.mpr fun htmo => hd ⟨(timed_iff _).mpr harmed, hx, htmo⟩
      exact step_armedWait hok hr harmed hempty hearly
  obtain ⟨t, hvt, hregs, hbufs, -⟩ := hsilent
  obtain rfl : w = t := Host.Outcome.next.inj (hw.symm.trans hvt)
  have ⟨_, _, _, _, hroles⟩ := hregs
  exact ⟨hroles, h.of_same hregs hbufs⟩

end

/-! ### Runs at any pace (R131) -/

/-- The step after the first `k` has no reset either. -/
theorem noReset_last {k : Nat} {s u : State} (hu : runSteps k s = .next u) (hn : s.noReset (k + 1)) :
    u.nextStimulus.rst = false := by
  rw [nextStimulus_eq, stimulusAt_run hu]
  exact hn k (Nat.lt_succ_self k)

theorem arrivals_last {k : Nat} {s u : State} (hu : runSteps k s = .next u) :
    s.arrivals (k + 1) = s.arrivals k ++ u.nextStimulus.arrive := by
  rw [arrivals_run hu, nextStimulus_eq]
  simp [State.arrivals]

/-- A byte that is taken was offered, in a step without a reset. -/
theorem offered_of_take {s t : State} (h : step s = .next t) (hr : s.nextStimulus.rst = false)
    (ht : s.sample.take = true) : ∃ b, Offered s b t.rxQueue := by
  obtain ⟨b, -, hqueue, -⟩ := (takeConsumesOneByte s t h).1 ht
  exact ⟨b, (step_next h).1, hr, hqueue⟩

/-- R131: along a run in which the sender meets its duty, a state that has not consumed the whole frame expects the rest of it. By induction on the run's last step, which takes the next byte or pauses; `later` arrives after the run. -/
theorem Expects.run {p : Params} {len seq : Half} {payload todo left later rest : List Byte} {k : Nat} {s u : State}
    (h : Expects p len seq payload s todo) (hp : s.cfg = p) (hlen : len.toNat = p.frameLen)
    (hpay : payload.length = p.frameLen) (hu : runSteps k s = .next u) (hn : s.noReset k)
    (hd : ∀ j < k, ∀ v, runSteps j s = .next v → SenderDuty v.sample)
    (hall : s.rxQueue ++ s.arrivals k ++ later = todo ++ rest) (hleft : u.rxQueue ++ later = left ++ rest)
    (hne : left ≠ []) : SameRoles s u ∧ Expects p len seq payload u left := by
  induction k generalizing u left later with
  | zero =>
    cases hu
    rw [arrivals_zero, List.append_nil, hleft] at hall
    exact ⟨⟨rfl, rfl, rfl⟩, List.append_cancel_right hall ▸ h⟩
  | succ k ih =>
    obtain ⟨v, hv, hvu⟩ := runSteps_last hu
    have hlast := Nat.lt_succ_self k
    have hnk := noReset_mono hlast.le hn
    have hdk : ∀ j < k, ∀ w, runSteps j s = .next w → SenderDuty w.sample := fun j hj => hd j (hj.trans hlast)
    have hrst := noReset_last hv hn
    have hallv : s.rxQueue ++ s.arrivals k ++ (v.nextStimulus.arrive ++ later) = todo ++ rest := by
      rw [← hall, arrivals_last hv]
      simp only [List.append_assoc]
    cases ht : v.sample.take with
    | false =>
      have hkept : v.nextQueue = u.rxQueue := ((takeConsumesOneByte v u hvu).2 ht).1.symm
      have hqueue : v.rxQueue ++ (v.nextStimulus.arrive ++ later) = left ++ rest := by
        rw [← List.append_assoc, ← hleft, ← hkept, State.nextQueue]
      obtain ⟨hroles, hexp⟩ := ih hv hnk hdk hallv hqueue hne
      obtain ⟨hroles', hexp'⟩ := hexp.pause hvu hrst (hd k hlast v hv) ht
      exact ⟨sameRoles_trans hroles hroles', hexp'⟩
    | true =>
      obtain ⟨b, ho⟩ := offered_of_take hvu hrst ht
      have hqueue : v.rxQueue ++ (v.nextStimulus.arrive ++ later) = b :: left ++ rest := by
        rw [← List.append_assoc, ← State.nextQueue, ho.queue, List.cons_append, hleft, List.cons_append]
      obtain ⟨hroles, hexp⟩ := ih hv hnk hdk hallv hqueue (List.cons_ne_nil b left)
      obtain ⟨w, hw, hroles', hexp'⟩ := hexp.consume ho ((runSteps_cfg hv).trans hp) hlen hpay hne
      obtain rfl : u = w := Host.Outcome.next.inj (hvu.symm.trans hw)
      exact ⟨sameRoles_trans hroles hroles', hexp'⟩

/-- Settles O51: before its last byte the run still expects that byte, and taking it is the commit. -/
theorem pacedFrameIsShown : Obligations.PacedFrameIsShown := by
  intro k s u t len seq payload rest hok hs hlen hpay hu hut hn hall hd ht hrest
  obtain ⟨b, ho⟩ := offered_of_take hut (noReset_last hu hn) ht
  have hall' : s.rxQueue ++ s.arrivals k ++ u.nextStimulus.arrive = wireFrame s.cfg len seq payload ++ rest := by
    rw [← hall, arrivals_last hu, List.append_assoc]
  have hleft : u.rxQueue ++ u.nextStimulus.arrive = [b] ++ rest := hrest ▸ ho.queue
  obtain ⟨hroles, hexp⟩ := (Expects.marker0 hs).run rfl hlen hpay hu (noReset_mono (Nat.le_succ k) hn)
    (fun j hj => hd j hj.le) hall' hleft (List.cons_ne_nil b [])
  obtain ⟨w, hw, hst, hfront, hframe, hseq, hev, hbytes⟩ := hexp.commit ho (runSteps_cfg hu) hpay
  obtain rfl : t = w := Host.Outcome.next.inj (hut.symm.trans hw)
  rw [HoldsBytes, hpay] at hbytes
  exact ⟨hst, by rw [hfront, State.back, hroles.1], hframe, hseq, hev, hbytes⟩

end Sys2Proof.Machine
end

section
/-! PROOFS. The statements about a reset, the end of a read, the errors, the time source's duty, the render window and a repeated frame (70_reset_and_hazards.md R123 to R140). -/

namespace Sys2Proof.Machine

/-! ### The same frame twice (R139) -/

/-- R102: the pixels read the front buffer below `FRAME_LEN` alone. -/
theorem pixelAt_congr {s t : State} {c : Fin 2} {j : Nat} (hok : s.cfg.ok = true) (hc : t.cfg = s.cfg)
    (hb : ∀ off : Half, off.toNat < s.cfg.frameLen → t.bufByte t.front off = s.bufByte s.front off)
    (hj : j < channelSize s.cfg c) : pixelAt t c j = pixelAt s c j := by
  have hcolour : ∀ k < 3,
      t.bufByte t.front (colourOffset s.cfg c j k) = s.bufByte s.front (colourOffset s.cfg c j k) := by
    intro k hk
    obtain ⟨hoff, hlt⟩ := colourOffset_toNat hok hj hk
    exact hb _ (hoff ▸ hlt)
  simp only [pixelAt, hc, hcolour 0 (by decide), hcolour 1 (by decide), hcolour 2 (by decide)]

/-- Settles O56: O50 shows the first frame, the tick releases it, and O50 shows the second one from the IDLE behind it. -/
theorem sameFrameTwiceShowsTheSame : Obligations.SameFrameTwiceShowsTheSame := by
  intro s len seq₁ seq₂ payload rest hok hs hlen hpay hq hn htick
  obtain ⟨u, hu, hrender, -, hframe, -, -, hbytes, -, hqueue, hcfg⟩ := acceptedFrameIsShown s len seq₁ payload _
    hok hs hlen hpay hq (noReset_mono (by omega) hn)
  have hrst := noReset_last hu (noReset_mono (by omega) hn)
  have htick' : u.nextStimulus.tick = true := by
    rw [nextStimulus_eq, stimulusAt_run hu]
    exact htick
  obtain ⟨v, huv, hidle, hroles, -, hvqueue⟩ := step_release (hcfg ▸ hok) hrst (.inl hrender) htick'
  have hv : runSteps (6 + s.cfg.frameLen + 1) s = .next v := by
    rw [runSteps_add_of_run 1 hu, runSteps_one, huv]
  have hvcfg : v.cfg = s.cfg := runSteps_cfg hv
  rw [hqueue, ← hvcfg, List.append_assoc, List.append_assoc] at hvqueue
  obtain ⟨t, ht, -, htfront, htframe, -, -, htbytes, -, -, htcfg⟩ := acceptedFrameIsShown v len seq₂ payload _
    (hvcfg ▸ hok) hidle (hvcfg ▸ hlen) (hvcfg ▸ hpay) hvqueue (hvcfg ▸ noReset_run hv hn)
  rw [hvcfg] at ht htbytes htcfg
  have hsame : ∀ off : Half, off.toNat < s.cfg.frameLen → t.bufByte t.front off = u.bufByte u.front off :=
    fun off hoff => Option.some.inj ((htbytes off hoff).symm.trans (hbytes off hoff))
  exact ⟨u, t, hu, (runSteps_add_of_run _ hv).trans ht, hframe, htframe, hroles.1 ▸ htfront, hsame, fun c j hj =>
    pixelAt_congr (hcfg ▸ hok) (htcfg.trans hcfg.symm) (hcfg ▸ hsame) (hcfg ▸ hj)⟩

/-! ### Errors (R140) -/

/-- Settles O37: the three rows that write the roles or a buffer emit FRAME_READY or nothing. -/
theorem errorsKeepTheShownFrame : Obligations.ErrorsKeepTheShownFrame := by
  intro s t h hev
  obtain ⟨hroles, hbuffers, -⟩ := onlyTheCommitMovesTheFront s t h
  have hrow : t.out.ev = rowEvent s.sample.fetch := by rw [step_out h]
  rw [hrow] at hev
  constructor <;> by_contra hne
  · obtain hi | ⟨b, hi⟩ := hroles hne <;> simp [hi, rowEvent] at hev
  · obtain hi | ⟨b, hi | hi⟩ := hbuffers hne <;> simp [hi, rowEvent] at hev

/-! ### What ends a read (R135) -/

/-- A row that leaves an armed read is RESET, the timeout, or one that consumes the last expected byte. -/
theorem RowStep.ends_read {c u : State} (h : RowStep c u) (hs : c.st.timed = true) (hne : u.st ≠ c.st) :
    c.pins.rst = true ∨ (c.pins.rx = none ∧ c.tmo = true) ∨
      (c.pins.rx.isSome = true ∧
        ((c.st = .hdr ∧ c.hcnt = 3#2) ∨ (c.st = .payload ∧ c.cnt.toNat = c.cfg.frameLen - 1) ∨
         (c.st = .discard ∧ c.cnt = 1#16))) := by
  cases h with
  | reset hr => exact .inl hr
  | timeout hr _ hx ht => exact .inr (.inl ⟨hx, ht⟩)
  | hdrAccept b hr hst hx hc | hdrMismatchZero b hr hst hx hc | hdrMismatch b hr hst hx hc
  | hdrTooLarge b hr hst hx hc => exact .inr (.inr ⟨by rw [hx]; rfl, .inl ⟨hst, hc⟩⟩)
  | payCommit b hr hst hx hf hc => exact .inr (.inr ⟨by rw [hx]; rfl, .inr (.inl ⟨hst, hc⟩)⟩)
  | discDone b hr hst hx hc => exact .inr (.inr ⟨by rw [hx]; rfl, .inr (.inr ⟨hst, hc⟩)⟩)
  | hdrByte => exact absurd (by simp) hne
  | idleSkip | waitTimed | waitScan | payByte | discByte | hold => exact absurd rfl hne
  | idleM0 b hr hst | gotM1 b hr hst | gotFail b hr hst => rw [hst] at hs; cases hs
  | release hr hst => obtain hst | hst := hst <;> rw [hst] at hs <;> cases hs

/-- Settles O38: by rows, with the timeout condition as a comparison. -/
theorem onlyTimeoutLastByteOrResetEndsARead : Obligations.OnlyTimeoutLastByteOrResetEndsARead := by
  intro s t h hs hne
  obtain ⟨-, u, hu, rfl⟩ := step_next h
  exact (hu.ends_read ((timed_iff s.st).mpr hs) hne).imp_right (.imp_left (.imp_right (tmo_eq_true_iff _).mp))

/-! ### The time source (R133) -/

/-- Settles O39: `t_last` stays in such a step, so `elapsed` moves as `now_ms` does. -/
theorem elapsedRisesByAtMostOne : Obligations.ElapsedRisesByAtMostOne := by
  intro s t h htake hr hduty
  have hlast : t.tLast = s.tLast := ((takeConsumesOneByte s t h).2 htake).2 hr
  simp only [State.elapsed, sample_tLast, hlast]
  obtain hnow | hnow := hduty
  · exact .inl (by rw [hnow])
  · exact .inr (by rw [hnow, add_sub_right_comm])

/-! ### The render window (R128, R130) -/

/-- A step inside one stay in RENDER is no reset, which leads to IDLE, and no commit, which starts in PAYLOAD. -/
theorem step_within_render {s t : State} (h : step s = .next t) (hs : s.st = .render) (ht : t.st = .render) :
    s.nextStimulus.rst = false ∧ t.out.ev ≠ .frameReady := by
  refine ⟨Bool.eq_false_iff.mpr fun hr => ?_, fun hev => ?_⟩
  · obtain ⟨u, hu, hreset⟩ := step_reset (step_next h).1 hr
    obtain rfl : t = u := Host.Outcome.next.inj (h.symm.trans hu)
    cases ht.symm.trans hreset.stIdle
  · cases hs.symm.trans (step_st_of_frameReady h hev).1

/-- R101: along one stay in RENDER the front buffer shows the same bytes, by induction on the run's last step. -/
theorem run_within_render {k : Nat} {s u : State} (hu : runSteps k s = .next u)
    (hrender : ∀ j ≤ k, ∀ v, runSteps j s = .next v → v.st = .render) (off : Half) :
    u.bufByte u.front off = s.bufByte s.front off := by
  induction k generalizing u with
  | zero => cases hu; rfl
  | succ k ih =>
    obtain ⟨v, hv, hvu⟩ := runSteps_last hu
    obtain ⟨hr, hev⟩ := step_within_render hvu (hrender k (Nat.le_succ k) v hv) (hrender (k + 1) le_rfl u hu)
    exact (step_shown hvu hr hev off).trans (ih hv fun j hj => hrender j (hj.trans (Nat.le_succ k)))

/-- Settles O52: the port shows the front byte of the state before the step, which the stay in RENDER has kept. -/
theorem renderWindowReadsOnePayload : Obligations.RenderWindowReadsOnePayload := by
  intro k s u t hu hut hduty hread
  have hport : t.out.rdData = some (u.bufByte u.front u.nextStimulus.rdAddr) :=
    (readPortShowsTheStateBeforeTheStep u t hut).1 hread
  rw [hport, run_within_render hu fun j hj v hv => (hduty j hj v hv).1]
  rfl

/-! ### Reset (R123, R124) -/

/-- Settles O23: `rst` selects RESET, whose next state is `resetRegisters` with no event. -/
theorem resetRow : Obligations.ResetRow := by
  intro s hr
  exact ⟨fetch_reset hr, s.resetRegisters.emit .none, rfl, rfl, rfl, rfl, rfl, rfl, rfl, rfl, rfl, rfl,
    resetRegisters_bufByte s, rfl, rfl, rfl, rfl, rfl, rfl, rfl⟩

theorem isReset_resetWith {p : Params} (h : p.ok = true) : IsReset (State.resetWith p) :=
  ⟨h, rfl, rfl, rfl, rfl, rfl, rfl, rfl, rfl, rfl⟩

/-- Settles O42: EX1 meets R7, and a reset state meets every clause of the invariant. -/
theorem invariantHoldsAtReset : Obligations.InvariantHoldsAtReset :=
  ⟨isReset_resetWith (by decide), fun _ => stateInv_of_isReset⟩

end Sys2Proof.Machine
end
